-- ==== Sys2Proof/Word.lean ====
section
/-! DEFINITION. The word types of the textstego BGC block: bytes and 32-bit words (spec/00_scope.md R6, R7). -/

namespace Sys2Proof

/-- A byte: an unsigned integer in 0..255, bit 7 the most significant (00_scope.md R6). -/
abbrev Byte := BitVec 8

/-- A control-port word: 32 bits, bit 31 the most significant (20_memory.md R62). -/
abbrev Word := BitVec 32

/-- A finite sequence of bytes (00_scope.md R7). -/
abbrev Bytes := List Byte

/-- A finite sequence of bits, the earlier bit of the stream first (00_scope.md R7, 30_encoding.md R88). -/
abbrev Bits := List Bool

end Sys2Proof
end

