-- ==== Sys2Proof/Config.lean ====
section
/-! DEFINITION. What is fixed for the block (spec/00_scope.md R4): the constants BASE, MARKER and ID_VALUE,
and the two OPEN parameters, the codec pair Zc/Zd and the buffer capacity ZBUF_CAP. -/

namespace Sys2Proof

/-- BASE, the lowest alphabet byte (00_scope.md R4). -/
def baseByte : Byte := 0x1C#8

/-- MARKER, the space character, the only delimiter byte (30_encoding.md R84). -/
def markerByte : Byte := 0x20#8

/-- ID_VALUE, what register 0 reads (10_state.md R30). -/
def idValue : Word := 0x54530707#32

/-- A codec pair with its one law (41_compressor.md R130): `zc` is total, `zd` answers `none` for FAIL.
The default fields only show that a pair exists; no definition of the model uses them. -/
structure Codec where
  zc : Bytes → Bytes := fun x => x
  zd : Bytes → Option Bytes := fun y => some y
  law : ∀ x, zd (zc x) = some x := by intro x; rfl
  deriving Inhabited

/-- The OPEN parameters of 00_scope.md R4; `cap = none` is `ZBUF_CAP = INF`. -/
structure Params where
  codec : Codec
  cap : Option Nat

namespace Params

/-- Zc, the compress function (41_compressor.md R130). -/
def zc (P : Params) (x : Bytes) : Bytes := P.codec.zc x

/-- Zd, the decompress function; `none` is FAIL (41_compressor.md R130). -/
def zd (P : Params) (y : Bytes) : Option Bytes := P.codec.zd y

/-- `n <= ZBUF_CAP` (41_compressor.md R134, R138). -/
def fits (P : Params) (n : Nat) : Bool :=
  match P.cap with
  | none => true
  | some c => decide (n ≤ c)

/-- `n < ZBUF_CAP`: a buffer that holds n bytes has room for one more (41_compressor.md R132). -/
def room (P : Params) (n : Nat) : Bool :=
  match P.cap with
  | none => true
  | some c => decide (n < c)

end Params

namespace Config

/-- The codec of the block: OPEN, so no value of it can be seen or proved beyond the law (41_compressor.md R130,
R131; 93_implementation_defined.md I1, I2; log 6). -/
opaque codec : Codec

/-- ZBUF_CAP of the block: OPEN, a natural number or `none` for INF (00_scope.md R4; 93_implementation_defined.md
I3; log 7). -/
opaque zbufCap : Option Nat

/-- The parameters the block runs with. -/
def params : Params := { codec := codec, cap := zbufCap }

end Config

end Sys2Proof
end

