-- ==== Sys2Proof/Syntax.lean ====
section
/-! DEFINITION. The instructions of spec/opcode_table.json, one constructor for each of its sixteen rows, and the
two forms a code has: a command word and a stream byte (spec/30_encoding.md). -/

namespace Sys2Proof

/-- The group width w, 1 or 2 bits (00_scope.md R4; 30_encoding.md R91). -/
inductive Width where
  | w1
  | w2
  deriving DecidableEq, Repr

/-- The opcode table: nine commands (30_encoding.md R92), six alphabet symbols (R80) and the marker (R84).
`w` is the width operand, `ce` the compression enable. -/
inductive Instr where
  | clr
  | pack (w : Width)
  | unpack (w : Width)
  | frame
  | strip (w : Width)
  | compress
  | decompress
  | hide (w : Width) (ce : Bool)
  | extract (w : Width) (ce : Bool)
  | sym1_0
  | sym1_1
  | sym2_00
  | sym2_01
  | sym2_10
  | sym2_11
  | marker
  deriving DecidableEq, Repr

/-- The fields of a command word (30_encoding.md R90), before any check of their values. -/
structure CmdFields where
  zero : BitVec 26
  ce : BitVec 1
  w : BitVec 1
  op : BitVec 4
  deriving DecidableEq, Repr

/-- A code as it reaches the block: a word written to CMD, or a byte on the IN stream. -/
inductive Code where
  | cmd (v : Word)
  | byte (b : Byte)
  deriving DecidableEq, Repr

end Sys2Proof
end

