-- ==== Sys2Proof/WellFormed.lean ====
section
/-! DEFINITION. Legality of a command word's fields (spec/30_encoding.md R93): four checks, each refusing a field
value for which no command exists. An `Instr` has no ill-formed operand: "no value of W is reserved" (R91). -/

namespace Sys2Proof.CmdFields

/-- `v[31:6] = 0` (30_encoding.md R93). -/
def zeroOk (f : CmdFields) : Bool := f.zero == 0#26

/-- `v[3:0] <= 8` (30_encoding.md R93). -/
def opOk (f : CmdFields) : Bool := decide (f.op.toNat ≤ 8)

/-- If OP is in {0, 3, 5, 6} then W = 0 (30_encoding.md R93). -/
def widthOk (f : CmdFields) : Bool := !([0, 3, 5, 6].contains f.op.toNat) || f.w == 0#1

/-- If OP is in {0, 1, 2, 3, 4, 5, 6} then CE = 0 (30_encoding.md R93). -/
def ceOk (f : CmdFields) : Bool := !([0, 1, 2, 3, 4, 5, 6].contains f.op.toNat) || f.ce == 0#1

/-- A legal command word (30_encoding.md R93). -/
def wellFormed (f : CmdFields) : Bool := f.zeroOk && f.opOk && f.widthOk && f.ceOk

end Sys2Proof.CmdFields
end

