-- ==== Sys2Proof/Decode.lean ====
section
/-! DEFINITION. The decoder, total and rejecting by name (spec/30_encoding.md R95), then the encoder (R92, R80,
R84) and the textual form (R96). -/

namespace Sys2Proof

/-- Why a code is no instruction. For a command word each reason is an `ILLEGAL_CMD` (30_encoding.md R94). -/
inductive Reject where
  /-- `v[31:6]` is not zero. -/
  | reservedBits
  /-- OP is 9 to 15. -/
  | reservedOp
  /-- W is set in a command that does not use it. -/
  | unusedWidth
  /-- CE is set in a command that does not use it. -/
  | unusedCe
  /-- A stream byte that is neither an alphabet byte of the width nor the marker: plain data. -/
  | notTableByte
  deriving DecidableEq, Repr

/-- The fields of a word (30_encoding.md R90): `[31:6]`, CE `[5]`, W `[4]`, OP `[3:0]`. -/
def fieldsOf (v : Word) : CmdFields :=
  { zero := v.extractLsb' 6 26, ce := v.extractLsb' 5 1, w := v.extractLsb' 4 1, op := v.extractLsb' 0 4 }

/-- The word that has these fields (30_encoding.md R90). -/
def wordOf (f : CmdFields) : Word := ((f.zero ++ f.ce) ++ f.w) ++ f.op

/-- `w = W + 1` (30_encoding.md R91). -/
def widthOfBit (b : BitVec 1) : Width := if b = 0#1 then .w1 else .w2

/-- The W bit of a width (30_encoding.md R91). -/
def bitOfWidth (w : Width) : BitVec 1 :=
  match w with
  | .w1 => 0#1
  | .w2 => 1#1

/-- The CE bit (30_encoding.md R91: `ce = CE`). -/
def bitOfCe (ce : Bool) : BitVec 1 := if ce then 1#1 else 0#1

/-- A command that uses neither W nor CE: both must be 0 (30_encoding.md R95, cases 0, 3, 5, 6). -/
def decodePlain (f : CmdFields) (i : Instr) : Except Reject Instr :=
  if f.w = 0#1 then (if f.ce = 0#1 then .ok i else .error .unusedCe) else .error .unusedWidth

/-- A command that uses W but not CE (30_encoding.md R95, cases 1, 2, 4). -/
def decodeWidth (f : CmdFields) (i : Width → Instr) : Except Reject Instr :=
  if f.ce = 0#1 then .ok (i (widthOfBit f.w)) else .error .unusedCe

/-- A command that uses W and CE (30_encoding.md R95, cases 7, 8). -/
def decodeFull (f : CmdFields) (i : Width → Bool → Instr) : Except Reject Instr :=
  .ok (i (widthOfBit f.w) (decide (f.ce = 1#1)))

/-- The decoder of command words, total on 32-bit words (30_encoding.md R95). -/
def decodeCmd (v : Word) : Except Reject Instr :=
  let f := fieldsOf v
  if f.zero = 0#26 then
    match f.op.toNat with
    | 0 => decodePlain f .clr
    | 1 => decodeWidth f .pack
    | 2 => decodeWidth f .unpack
    | 3 => decodePlain f .frame
    | 4 => decodeWidth f .strip
    | 5 => decodePlain f .compress
    | 6 => decodePlain f .decompress
    | 7 => decodeFull f .hide
    | 8 => decodeFull f .extract
    | _ => .error .reservedOp
  else .error .reservedBits

/-- The row of the opcode table a stream byte stands for at width `w` (30_encoding.md R80, R84). At width 1 the
bytes 0x1E and 0x1F are no alphabet bytes (R81; 90_conflicts.md C1). -/
def decodeByte (w : Width) (b : Byte) : Except Reject Instr :=
  if b = 0x20#8 then .ok .marker
  else match w with
    | .w1 =>
      if b = 0x1C#8 then .ok .sym1_0
      else if b = 0x1D#8 then .ok .sym1_1
      else .error .notTableByte
    | .w2 =>
      if b = 0x1C#8 then .ok .sym2_00
      else if b = 0x1D#8 then .ok .sym2_01
      else if b = 0x1E#8 then .ok .sym2_10
      else if b = 0x1F#8 then .ok .sym2_11
      else .error .notTableByte

/-- The decoder of both forms of code; `w` is the width of the latched command, which only a byte needs
(30_encoding.md R85, R98: nothing in the data selects the width). -/
def decode (w : Width) (c : Code) : Except Reject Instr :=
  match c with
  | .cmd v => decodeCmd v
  | .byte b => decodeByte w b

/-- The instruction an opcode-table row's bits stand for. Rows of at most 8 bits are stream bytes, longer ones
command words. The table gives 0x1C and 0x1D two rows each, so a byte alone is read at width 2 (log 5). -/
def decodeTableWord (nbits w : Nat) : Option Instr :=
  if nbits ≤ 8 then
    (if w < 2 ^ 8 then (decodeByte .w2 (BitVec.ofNat 8 w)).toOption else none)
  else if nbits ≤ 32 then
    (if w < 2 ^ 32 then (decodeCmd (BitVec.ofNat 32 w)).toOption else none)
  else none

/-- A command word from its OP, W and CE; the reserved bits are 0 (30_encoding.md R90). -/
def cmdWord (op : BitVec 4) (w ce : BitVec 1) : Word := wordOf { zero := 0#26, ce := ce, w := w, op := op }

/-- The encoder, from the opcode map (30_encoding.md R92), the alphabet (R80) and the marker (R84). -/
def encode (i : Instr) : Code :=
  match i with
  | .clr => .cmd (cmdWord 0#4 0#1 0#1)
  | .pack w => .cmd (cmdWord 1#4 (bitOfWidth w) 0#1)
  | .unpack w => .cmd (cmdWord 2#4 (bitOfWidth w) 0#1)
  | .frame => .cmd (cmdWord 3#4 0#1 0#1)
  | .strip w => .cmd (cmdWord 4#4 (bitOfWidth w) 0#1)
  | .compress => .cmd (cmdWord 5#4 0#1 0#1)
  | .decompress => .cmd (cmdWord 6#4 0#1 0#1)
  | .hide w ce => .cmd (cmdWord 7#4 (bitOfWidth w) (bitOfCe ce))
  | .extract w ce => .cmd (cmdWord 8#4 (bitOfWidth w) (bitOfCe ce))
  | .sym1_0 => .byte 0x1C#8
  | .sym1_1 => .byte 0x1D#8
  | .sym2_00 => .byte 0x1C#8
  | .sym2_01 => .byte 0x1D#8
  | .sym2_10 => .byte 0x1E#8
  | .sym2_11 => .byte 0x1F#8
  | .marker => .byte 0x20#8

/-- The widths at which an instruction's code is read as that instruction: a command word and the marker at both,
a symbol at its own (30_encoding.md R80, R84, R98). -/
def readAt (w : Width) (i : Instr) : Bool :=
  match i with
  | .sym1_0 | .sym1_1 => decide (w = .w1)
  | .sym2_00 | .sym2_01 | .sym2_10 | .sym2_11 => decide (w = .w2)
  | .clr | .pack _ | .unpack _ | .frame | .strip _ | .compress | .decompress | .hide _ _ | .extract _ _
  | .marker => true

/-- The width part of a command's text (30_encoding.md R96). -/
def textOfWidth (w : Width) : String :=
  match w with
  | .w1 => ".1"
  | .w2 => ".2"

/-- The compression part of a command's text (30_encoding.md R96). -/
def textOfCe (ce : Bool) : String := if ce then ".Z" else ""

/-- The textual form of an instruction: a command's as 30_encoding.md R96 has it, a symbol's and the marker's as
the opcode table names the row. -/
def textOf (i : Instr) : String :=
  match i with
  | .clr => "CLR"
  | .pack w => "PACK" ++ textOfWidth w
  | .unpack w => "UNPACK" ++ textOfWidth w
  | .frame => "FRAME"
  | .strip w => "STRIP" ++ textOfWidth w
  | .compress => "COMPRESS"
  | .decompress => "DECOMPRESS"
  | .hide w ce => "HIDE" ++ textOfWidth w ++ textOfCe ce
  | .extract w ce => "EXTRACT" ++ textOfWidth w ++ textOfCe ce
  | .sym1_0 => "SYM1.0"
  | .sym1_1 => "SYM1.1"
  | .sym2_00 => "SYM2.00"
  | .sym2_01 => "SYM2.01"
  | .sym2_10 => "SYM2.10"
  | .sym2_11 => "SYM2.11"
  | .marker => "MARKER"

end Sys2Proof
end

