-- ==== Sys2Proof/Machine/State.lean ====
section
/-! DEFINITION. The complete state of the block (spec/10_state.md R23) as plain data, with the host's side of the
three ports beside it; the state after reset (R38); the reasons a step of the model can stop. -/

namespace Sys2Proof.Machine

/-- STATE, the sequencer, the only control state (10_state.md R24). -/
inductive Seq where
  | idle
  | busy
  | done
  | fault
  deriving DecidableEq, Repr

/-- ERR, the fault code (60_exceptions.md R190). Codes 4 to 15 are never produced (10_state.md R32) and have no
constructor (log 16). -/
inductive ErrCode where
  | none
  | illegalCmd
  | malformed
  | overflow
  deriving DecidableEq, Repr

/-- A token of IN or between two stages (20_memory.md R50): a byte, or the end of the stream. -/
inductive Token where
  | byte (b : Byte)
  | eos
  deriving DecidableEq, Repr

/-- A token of OUT (20_memory.md R50): a byte, or `END(c)` with a fault code, `none` for success. -/
inductive OutTok where
  | byte (b : Byte)
  | fin (c : ErrCode)
  deriving DecidableEq, Repr

/-- A move of the host (10_state.md R21, R22). The first three and `consume` are the step kinds of R22; `offer`
and `discard` change only what stands on the IN port (20_memory.md R51, 70_reset_and_hazards.md R235; log 1). -/
inductive HostMove where
  | reset
  | regRead (i : BitVec 3)
  | regWrite (i : BitVec 3) (v : Word)
  /-- Put one 9-bit beat on the IN port, behind those already offered (30_encoding.md R86). -/
  | offer (beat : BitVec 9)
  /-- Withdraw the oldest offered token. -/
  | discard
  /-- Attempt to hand the oldest offered token over: the step Consume(t) where it is enabled. -/
  | consume
  deriving DecidableEq, Repr

/-- The state: the twelve items of 10_state.md R23, then the host's side as plain data. -/
structure State where
  /-- STATE (R24). -/
  seq : Seq
  /-- ERR (R32). -/
  err : ErrCode
  /-- BUSYWR (R32). -/
  busywr : Bool
  /-- CMD, the latched command word (R31). -/
  cmd : Word
  /-- ZLEN_IN (R33). -/
  zlenIn : Word
  /-- ZLEN_OUT (R33). -/
  zlenOut : Word
  /-- ACC, the unpacker's bit accumulator (R25). -/
  acc : Byte
  /-- NB, the unpacker's bit count (R25). -/
  nb : BitVec 3
  /-- SP, the stripper's space-pending flag (R26). -/
  sp : Bool
  /-- MK, the framer's marker-sent flag (R26). -/
  mkf : Bool
  /-- OVF, the optional stage's overflow flag (R28). -/
  ovf : Bool
  /-- ZBUF, the optional stage's buffer (R28). -/
  zbuf : Bytes
  /-- OUTH, the history of output tokens, oldest first (R40; log 9). -/
  outH : List OutTok
  /-- The tokens on offer at IN that the engine has not consumed, oldest first (20_memory.md R51; log 1). -/
  inq : List Token
  /-- The host's coming moves, oldest first (log 1). -/
  script : List HostMove
  /-- What RegRead has returned so far, oldest first: register index and value (20_memory.md R59; log 8). -/
  readH : List (BitVec 3 × Word)
  deriving DecidableEq, Repr

/-- The state right after reset (10_state.md R38, 70_reset_and_hazards.md R220), the host having offered and
planned nothing (logs 3 and 12). -/
def State.reset : State :=
  { seq := .idle, err := .none, busywr := false, cmd := 0#32, zlenIn := 0#32, zlenOut := 0#32,
    acc := 0#8, nb := 0#3, sp := false, mkf := false, ovf := false, zbuf := [],
    outH := [], inq := [], script := [], readH := [] }

/-- Why the model stops. The block's own faults ILLEGAL_CMD, MALFORMED and OVERFLOW are no stops: they are taken
and end in a next state with STATE = FAULT (60_exceptions.md R190). -/
inductive Fault where
  /-- Raised by a Consume step while STATE = BUSY and CMD holds no stream command. 10_state.md R24 and R27 leave no
  run that gets there, so the spec gives such a step no effect. Safe (log 11). -/
  | noStreamCommand
  deriving DecidableEq, Repr

/-- Why the model gives an instruction no meaning. -/
inductive Refusal where
  /-- An arm of exec whose instruction has no meaning yet; no arm of this model uses it. Safe. -/
  | notModelled (mnemonic : String)
  deriving DecidableEq, Repr

end Sys2Proof.Machine
end

