-- ==== Sys2Proof/Machine/Operands.lean ====
section
/-! DEFINITION. The operand forms of the block: the width and its alphabet (spec/30_encoding.md R80 to R82, R88),
the beats of the two ports (R86), the indices of the control registers (spec/10_state.md R29). -/

namespace Sys2Proof.Machine

/-- The group width in bits (00_scope.md R4). -/
def widthBits (w : Width) : Nat :=
  match w with
  | .w1 => 1
  | .w2 => 2

/-- The width of the latched command, `w = W + 1` (30_encoding.md R91). -/
def latchedWidth (s : State) : Width := widthOfBit (fieldsOf s.cmd).w

/-- SYM_w, the same sum at both widths (30_encoding.md R80). -/
def symbol (g : Byte) : Byte := baseByte + g

/-- `b` is in COD(w), by the bit patterns of 30_encoding.md R81. -/
def inCod (w : Width) (b : Byte) : Bool :=
  match w with
  | .w1 => b.extractLsb' 1 7 == 0b0001110#7
  | .w2 => b.extractLsb' 2 6 == 0b000111#6

/-- GRP_w, the group of an alphabet byte (30_encoding.md R82). -/
def groupOf (b : Byte) : Byte := b - baseByte

/-- Group `i` of a byte, `b[7 - w*i : 8 - w*(i+1)]`, zero-extended to a byte (30_encoding.md R88). -/
def groupAt (w : Width) (b : Byte) (i : Nat) : Byte :=
  match w with
  | .w1 => (b.extractLsb' (7 - i) 1).setWidth 8
  | .w2 => (b.extractLsb' (6 - 2 * i) 2).setWidth 8

/-- The `8/w` symbols of one byte, first group first (40_pack_unpack.md R111). -/
def symbolsOf (w : Width) (b : Byte) : Bytes :=
  (List.range (8 / widthBits w)).map fun i => symbol (groupAt w b i)

/-- The token an IN beat carries; the data bits of an end beat are ignored (30_encoding.md R86). -/
def tokenOfBeat (beat : BitVec 9) : Token :=
  if beat.extractLsb' 8 1 = 1#1 then .eos else .byte (beat.extractLsb' 0 8)

/-- The fault code of an `END(c)` token, 4 bits (60_exceptions.md R190). -/
def errCode (e : ErrCode) : BitVec 4 :=
  match e with
  | .none => 0#4
  | .illegalCmd => 1#4
  | .malformed => 2#4
  | .overflow => 3#4

/-- The beat that carries an OUT token (30_encoding.md R86). -/
def beatOfOut (t : OutTok) : BitVec 9 :=
  match t with
  | .byte b => 0#1 ++ b
  | .fin c => (1#1 ++ 0#4) ++ errCode c

/-- The register index of CMD (10_state.md R29). -/
def cmdIndex : BitVec 3 := 1#3

/-- The byte offset of a register on a bus that addresses bytes (20_memory.md R57; log 13). -/
def byteOffset (i : BitVec 3) : Nat := 4 * i.toNat

end Sys2Proof.Machine
end

