-- ==== Sys2Proof/Machine/Flags.lean ====
section
/-! DEFINITION. The status word and the length report: every flag the block has is a field of STATUS
(spec/10_state.md R32, R36), and no command writes a flag from the data it processes. -/

namespace Sys2Proof.Machine

/-- The encoding of STATE (10_state.md R24). -/
def seqCode (q : Seq) : BitVec 2 :=
  match q with
  | .idle => 0#2
  | .busy => 1#2
  | .done => 2#2
  | .fault => 3#2

/-- A one-bit flag as a bit. -/
def flagBit (b : Bool) : BitVec 1 := if b then 1#1 else 0#1

/-- STATUS: BUSYWR at bit 8, ERR at 7:4, STATE at 1:0, the other bits 0 (10_state.md R32). -/
def statusWord (s : State) : Word :=
  (((0#23 ++ flagBit s.busywr) ++ errCode s.err) ++ 0#2) ++ seqCode s.seq

/-- `sat32(n) = min(n, 2^32 - 1)` (10_state.md R33). -/
def sat32 (n : Nat) : Word := BitVec.ofNat 32 (min n (2 ^ 32 - 1))

end Sys2Proof.Machine
end

