-- ==== Sys2Proof/Machine/Ops.lean ====
section
/-! DEFINITION. The operations every rule is written with: the control port (spec/20_memory.md R58 to R60), InTake
and OutPut (R52, R54), the start of an operation (spec/10_state.md R27), its end (spec/43_composite_control.md
R175), fault entry (spec/60_exceptions.md R191, R196) and reset (spec/10_state.md R38). -/

namespace Sys2Proof.Machine

/-- OutPut(t): append to the OUT history (20_memory.md R54, 10_state.md R40). -/
def outPut (t : OutTok) (s : State) : State := { s with outH := s.outH ++ [t] }

/-- The working registers ACC, NB, SP, MK, OVF and ZBUF at their reset values (10_state.md R27, R38). -/
def clearWorking (s : State) : State :=
  { s with acc := 0#8, nb := 0#3, sp := false, mkf := false, ovf := false, zbuf := [] }

/-- What every CMD write does first while STATE is not BUSY, whatever the word (10_state.md R27). -/
def initOperation (v : Word) (s : State) : State :=
  clearWorking { s with cmd := v, busywr := false, err := .none, zlenIn := 0#32, zlenOut := 0#32 }

/-- A stream command is accepted (10_state.md R24, R31). -/
def acceptCommand (v : Word) (s : State) : State := { initOperation v s with seq := .busy }

/-- CLR is accepted; with it, or with any other command, the host leaves DONE or FAULT (10_state.md R24,
60_exceptions.md R198). -/
def returnToIdle (v : Word) (s : State) : State := { initOperation v s with seq := .idle }

/-- ILLEGAL_CMD: fault entry for code 1, taken at the CMD write; nothing is appended to OUT (60_exceptions.md
R191). -/
def illegalCommand (v : Word) (s : State) : State :=
  { initOperation v s with err := .illegalCmd, seq := .fault }

/-- `raise Fault(c)` for codes 2 and 3: fault entry inside a Consume(END) step (60_exceptions.md R196). ZLEN_IN,
ZLEN_OUT, CMD and BUSYWR are kept. -/
def enterFault (c : ErrCode) (s : State) : State :=
  { outPut (.fin c) { clearWorking s with err := c } with seq := .fault }

/-- `finish`: the successful end of an operation (43_composite_control.md R175). -/
def finish (s : State) : State := { outPut (.fin .none) s with seq := .done }

/-- A CMD write while STATE = BUSY: not decoded, only BUSYWR is set (10_state.md R31). -/
def writeWhileBusy (s : State) : State := { s with busywr := true }

/-- The Reset step: the block's twelve items at their reset values; the OUT history and the tokens the host still
offers are not the block's and stay (10_state.md R38, 70_reset_and_hazards.md R220, R221). -/
def resetBlock (s : State) : State :=
  { State.reset with outH := s.outH, inq := s.inq, script := s.script, readH := s.readH }

/-- The value a control register reads (20_memory.md R59): ID, CMD, STATUS, ZLEN_IN, ZLEN_OUT at indices 0 to 4, and
0 at the unmapped indices 5 to 7. -/
def regValue (i : BitVec 3) (s : State) : Word :=
  match i.toNat with
  | 0 => idValue
  | 1 => s.cmd
  | 2 => statusWord s
  | 3 => s.zlenIn
  | 4 => s.zlenOut
  | _ => 0#32

/-- RegRead(i): returns the value and changes nothing of the block (20_memory.md R59); the value is kept in the
host's history (log 8). -/
def regRead (i : BitVec 3) (s : State) : State := { s with readH := s.readH ++ [(i, regValue i s)] }

/-- The host puts a beat on IN (20_memory.md R51, 30_encoding.md R86). -/
def offerBeat (beat : BitVec 9) (s : State) : State := { s with inq := s.inq ++ [tokenOfBeat beat] }

/-- The host withdraws the oldest token it offers (70_reset_and_hazards.md R235). -/
def withdraw (s : State) : State := { s with inq := s.inq.tail }

/-- How far a step has come: it goes on in a state, or a raised fault has ended it, so that no later statement of
any stage runs (43_composite_control.md R170). -/
inductive Flow where
  | go (s : State)
  | ended (s : State)
  deriving DecidableEq, Repr

/-- The state a flow has reached. -/
def Flow.state (r : Flow) : State :=
  match r with
  | .go s => s
  | .ended s => s

/-- The next statement: it runs only if the step has not ended (43_composite_control.md R170). -/
def Flow.next (r : Flow) (f : State → Flow) : Flow :=
  match r with
  | .go s => f s
  | .ended s => .ended s

/-- Where a stage hands its tokens: the rest of the pipeline, which acts on a token completely before the emitting
stage continues (43_composite_control.md R170). -/
abbrev Sink := Token → State → Flow

/-- `raise Fault(c)` inside a stage (60_exceptions.md R196). -/
def raiseFault (c : ErrCode) (s : State) : Flow := .ended (enterFault c s)

/-- `emit B(x[0])`, `emit B(x[1])`, ... in order (40_pack_unpack.md R111, 41_compressor.md R133). -/
def emitBytes (emit : Sink) (x : Bytes) (s : State) : Flow :=
  match x with
  | [] => .go s
  | b :: rest => (emit (.byte b) s).next (emitBytes emit rest)

/-- The OUT port as the last sink: `emit B(b)` is OutPut, `emit END` ends the operation (43_composite_control.md
R170, R175). -/
def outPort : Sink := fun t s =>
  match t with
  | .byte b => .go (outPut (.byte b) s)
  | .eos => .go (finish s)

end Sys2Proof.Machine
end

