-- ==== Sys2Proof/Machine/Stages.lean ====
section
/-! DEFINITION. The six pipeline stages of spec/43_composite_control.md R170. Each is written from its own rule as
a function of the sink it emits to; a list of stages is a pipeline that ends at the OUT port. -/

namespace Sys2Proof.Machine

/-- The stages (43_composite_control.md R170). -/
inductive Stage where
  | packer (w : Width)
  | unpacker (w : Width)
  | compressor
  | decompressor
  | framer
  | stripper (w : Width)
  deriving DecidableEq, Repr

/-- P(w), stateless (40_pack_unpack.md R111). -/
def packerStage (w : Width) (emit : Sink) : Sink := fun t s =>
  match t with
  | .byte b => emitBytes emit (symbolsOf w b) s
  | .eos => emit .eos s

/-- U(w), over ACC and NB (40_pack_unpack.md R116). `n` is computed in 4 bits (log 14). -/
def unpackerStage (w : Width) (emit : Sink) : Sink := fun t s =>
  match t with
  | .byte b =>
    if inCod w b then
      let a := (s.acc <<< widthBits w) ||| groupOf b
      let n := s.nb.setWidth 4 + BitVec.ofNat 4 (widthBits w)
      if n = 8#4 then (emit (.byte a) s).next fun r => .go { r with acc := 0#8, nb := 0#3 }
      else .go { s with acc := a, nb := n.setWidth 3 }
    else .go s
  | .eos => emit .eos { s with acc := 0#8, nb := 0#3 }

/-- z_store(b): append to ZBUF, or set OVF and discard the byte when the buffer is full (41_compressor.md R132). -/
def zStore (P : Params) (b : Byte) (s : State) : State :=
  if P.room s.zbuf.length then { s with zbuf := s.zbuf ++ [b] } else { s with ovf := true }

/-- The compressor's writes at END: the size report, and ZBUF emptied (41_compressor.md R133, R137). -/
def reportSizes (y : Bytes) (s : State) : State :=
  { s with zlenIn := sat32 s.zbuf.length, zlenOut := sat32 y.length, zbuf := [] }

/-- ZC, over ZBUF and OVF (41_compressor.md R133). -/
def compressorStage (P : Params) (emit : Sink) : Sink := fun t s =>
  match t with
  | .byte b => .go (zStore P b s)
  | .eos =>
    if s.ovf then raiseFault .overflow s
    else (emitBytes emit (P.zc s.zbuf) (reportSizes (P.zc s.zbuf) s)).next (emit .eos)

/-- ZD, over ZBUF and OVF (41_compressor.md R134): overflow first, then Zd's verdict, then the length of the result
(60_exceptions.md R199). -/
def decompressorStage (P : Params) (emit : Sink) : Sink := fun t s =>
  match t with
  | .byte b => .go (zStore P b s)
  | .eos =>
    if s.ovf then raiseFault .overflow s
    else match P.zd s.zbuf with
      | none => raiseFault .malformed s
      | some r =>
        if P.fits r.length then (emitBytes emit r { s with zbuf := [] }).next (emit .eos)
        else raiseFault .overflow s

/-- F, over MK (42_framer_strip.md R151). -/
def framerStage (emit : Sink) : Sink := fun t s =>
  match t with
  | .byte b =>
    (if s.mkf then .go s else (emit (.byte markerByte) s).next fun r => .go { r with mkf := true }).next
      (emit (.byte b))
  | .eos =>
    (if s.mkf then .go s else emit (.byte markerByte) s).next fun r => emit .eos { r with mkf := false }

/-- S(w), over SP (42_framer_strip.md R156). -/
def stripperStage (w : Width) (emit : Sink) : Sink := fun t s =>
  match t with
  | .byte b =>
    if inCod w b then .go s
    else
      (if s.sp then (emit (.byte markerByte) s).next fun r => .go { r with sp := false } else .go s).next fun r =>
        if b = markerByte then .go { r with sp := true } else emit (.byte b) r
  | .eos => emit .eos { s with sp := false }

/-- The behaviour of a stage on a token (43_composite_control.md R170). -/
def stageSink (P : Params) (g : Stage) (emit : Sink) : Sink :=
  match g with
  | .packer w => packerStage w emit
  | .unpacker w => unpackerStage w emit
  | .compressor => compressorStage P emit
  | .decompressor => decompressorStage P emit
  | .framer => framerStage emit
  | .stripper w => stripperStage w emit

/-- The stages between IN and OUT as one sink (43_composite_control.md R170). -/
def pipeline (P : Params) (stages : List Stage) : Sink :=
  match stages with
  | [] => outPort
  | g :: rest => stageSink P g (pipeline P rest)

/-- Consume(t) through a pipeline: the state at the end of the step (10_state.md R22). -/
def consumeThrough (P : Params) (stages : List Stage) (t : Token) (s : State) : State :=
  (pipeline P stages t s).state

/-- One step of a stream command (log 4). While STATE is not BUSY it is started: its word is latched
(10_state.md R27, R31). While STATE = BUSY it takes the next token of IN through its pipeline (InTake,
20_memory.md R52), and with none on offer it waits (60_exceptions.md R210). -/
def streamCommand (v : Word) (stages : List Stage) (s : State) : Host.Outcome State Fault Refusal :=
  match s.seq with
  | .busy =>
    match s.inq with
    | [] => .next s
    | t :: rest => .next (consumeThrough Config.params stages t { s with inq := rest })
  | .idle | .done | .fault => .next (acceptCommand v s)

end Sys2Proof.Machine
end

