-- ==== Sys2Proof/Machine/Composite.lean ====
section
/-! DEFINITION. HIDE, EXTRACT and CLR (spec/43_composite_control.md R171, R173, R176). -/

namespace Sys2Proof.Machine

/-- `HIDE.w`: IN -> P(w) -> F -> OUT; `HIDE.w.Z`: IN -> ZC -> P(w) -> F -> OUT (43_composite_control.md R170). -/
def hidePipeline (w : Width) (ce : Bool) : List Stage :=
  if ce then [.compressor, .packer w, .framer] else [.packer w, .framer]

/-- `EXTRACT.w`: IN -> U(w) -> OUT; `EXTRACT.w.Z`: IN -> U(w) -> ZD -> OUT (43_composite_control.md R170). -/
def extractPipeline (w : Width) (ce : Bool) : List Stage :=
  if ce then [.unpacker w, .decompressor] else [.unpacker w]

/-- HIDE (43_composite_control.md R171). -/
def execHide (w : Width) (ce : Bool) (s : State) : Host.Outcome State Fault Refusal :=
  streamCommand (cmdWord 7#4 (bitOfWidth w) (bitOfCe ce)) (hidePipeline w ce) s

/-- EXTRACT (43_composite_control.md R173). -/
def execExtract (w : Width) (ce : Bool) (s : State) : Host.Outcome State Fault Refusal :=
  streamCommand (cmdWord 8#4 (bitOfWidth w) (bitOfCe ce)) (extractPipeline w ce) s

/-- CLR (43_composite_control.md R176): back to IDLE, or, while STATE = BUSY, ignored like every write. It consumes
no token and appends nothing to OUT. -/
def execClr (s : State) : Host.Outcome State Fault Refusal :=
  match s.seq with
  | .busy => .next (writeWhileBusy s)
  | .idle | .done | .fault => .next (returnToIdle (cmdWord 0#4 0#1 0#1) s)

end Sys2Proof.Machine
end

