-- ==== Sys2Proof/Machine/Compressor.lean ====
section
/-! DEFINITION. COMPRESS and DECOMPRESS (spec/41_compressor.md R133, R134). -/

namespace Sys2Proof.Machine

/-- `COMPRESS`: IN -> ZC -> OUT (43_composite_control.md R170). -/
def compressPipeline : List Stage := [.compressor]

/-- `DECOMPRESS`: IN -> ZD -> OUT (43_composite_control.md R170). -/
def decompressPipeline : List Stage := [.decompressor]

/-- COMPRESS (41_compressor.md R133). -/
def execCompress (s : State) : Host.Outcome State Fault Refusal :=
  streamCommand (cmdWord 5#4 0#1 0#1) compressPipeline s

/-- DECOMPRESS (41_compressor.md R134). -/
def execDecompress (s : State) : Host.Outcome State Fault Refusal :=
  streamCommand (cmdWord 6#4 0#1 0#1) decompressPipeline s

end Sys2Proof.Machine
end

