-- ==== Sys2Proof/Machine/FramerStrip.lean ====
section
/-! DEFINITION. FRAME and STRIP (spec/42_framer_strip.md R151, R156). -/

namespace Sys2Proof.Machine

/-- `FRAME`: IN -> F -> OUT (43_composite_control.md R170). -/
def framePipeline : List Stage := [.framer]

/-- `STRIP.w`: IN -> S(w) -> OUT (43_composite_control.md R170). -/
def stripPipeline (w : Width) : List Stage := [.stripper w]

/-- FRAME (42_framer_strip.md R151). -/
def execFrame (s : State) : Host.Outcome State Fault Refusal :=
  streamCommand (cmdWord 3#4 0#1 0#1) framePipeline s

/-- STRIP (42_framer_strip.md R156). -/
def execStrip (w : Width) (s : State) : Host.Outcome State Fault Refusal :=
  streamCommand (cmdWord 4#4 (bitOfWidth w) 0#1) (stripPipeline w) s

end Sys2Proof.Machine
end

