-- ==== Sys2Proof/Machine/PackUnpack.lean ====
section
/-! DEFINITION. PACK and UNPACK (spec/40_pack_unpack.md R111, R116). -/

namespace Sys2Proof.Machine

/-- `PACK.w`: IN -> P(w) -> OUT (43_composite_control.md R170). -/
def packPipeline (w : Width) : List Stage := [.packer w]

/-- `UNPACK.w`: IN -> U(w) -> OUT (43_composite_control.md R170). -/
def unpackPipeline (w : Width) : List Stage := [.unpacker w]

/-- PACK (40_pack_unpack.md R111). -/
def execPack (w : Width) (s : State) : Host.Outcome State Fault Refusal :=
  streamCommand (cmdWord 1#4 (bitOfWidth w) 0#1) (packPipeline w) s

/-- UNPACK (40_pack_unpack.md R116). -/
def execUnpack (w : Width) (s : State) : Host.Outcome State Fault Refusal :=
  streamCommand (cmdWord 2#4 (bitOfWidth w) 0#1) (unpackPipeline w) s

end Sys2Proof.Machine
end

