-- ==== Sys2Proof/Machine/Alphabet.lean ====
section
/-! DEFINITION. The byte rows of the opcode table: the six alphabet symbols (spec/30_encoding.md R80) and the marker
(R84). A byte has no effect of its own; its meaning is the step Consume(B(b)) of the latched command (log 5). -/

namespace Sys2Proof.Machine

/-- The pipeline of an instruction, `none` for what is no stream command (43_composite_control.md R170). -/
def pipelineOf (i : Instr) : Option (List Stage) :=
  match i with
  | .clr => none
  | .pack w => some (packPipeline w)
  | .unpack w => some (unpackPipeline w)
  | .frame => some framePipeline
  | .strip w => some (stripPipeline w)
  | .compress => some compressPipeline
  | .decompress => some decompressPipeline
  | .hide w ce => some (hidePipeline w ce)
  | .extract w ce => some (extractPipeline w ce)
  | .sym1_0 => none
  | .sym1_1 => none
  | .sym2_00 => none
  | .sym2_01 => none
  | .sym2_10 => none
  | .sym2_11 => none
  | .marker => none

/-- The pipeline of the stream command in CMD, if CMD holds one (10_state.md R34, 20_memory.md R68). -/
def latchedPipeline (s : State) : Option (List Stage) :=
  match decodeCmd s.cmd with
  | .ok i => pipelineOf i
  | .error _ => none

/-- A byte `b` that the host has handed over. While STATE = BUSY it is consumed under the latched command
(10_state.md R22). Outside BUSY, where no step comes, it goes back to the head of IN: the model's choice, after
20_memory.md R51 (log 5). -/
def streamByte (b : Byte) (s : State) : Host.Outcome State Fault Refusal :=
  match s.seq with
  | .busy =>
    match latchedPipeline s with
    | some stages => .next (consumeThrough Config.params stages (.byte b) s)
    | none => .fault .noStreamCommand
  | .idle | .done | .fault => .next { s with inq := .byte b :: s.inq }

/-- SYM1.0, 0x1C: the width-1 symbol of bit 0 (30_encoding.md R80). -/
def execSym1_0 (s : State) : Host.Outcome State Fault Refusal := streamByte 0x1C#8 s

/-- SYM1.1, 0x1D: the width-1 symbol of bit 1 (30_encoding.md R80). -/
def execSym1_1 (s : State) : Host.Outcome State Fault Refusal := streamByte 0x1D#8 s

/-- SYM2.00, 0x1C: the width-2 symbol of bits 00 (30_encoding.md R80). -/
def execSym2_00 (s : State) : Host.Outcome State Fault Refusal := streamByte 0x1C#8 s

/-- SYM2.01, 0x1D: the width-2 symbol of bits 01 (30_encoding.md R80). -/
def execSym2_01 (s : State) : Host.Outcome State Fault Refusal := streamByte 0x1D#8 s

/-- SYM2.10, 0x1E: the width-2 symbol of bits 10 (30_encoding.md R80). -/
def execSym2_10 (s : State) : Host.Outcome State Fault Refusal := streamByte 0x1E#8 s

/-- SYM2.11, 0x1F: the width-2 symbol of bits 11 (30_encoding.md R80). -/
def execSym2_11 (s : State) : Host.Outcome State Fault Refusal := streamByte 0x1F#8 s

/-- MARKER, 0x20: the delimiter byte (30_encoding.md R84). -/
def execMarker (s : State) : Host.Outcome State Fault Refusal := streamByte markerByte s

end Sys2Proof.Machine
end

