-- ==== Sys2Proof/Machine/Dispatch.lean ====
section
/-! DEFINITION. One arm for each constructor of Instr (spec/30_encoding.md R92, R80, R84). -/

namespace Sys2Proof.Machine

def exec (i : Instr) (s : State) : Host.Outcome State Fault Refusal :=
  match i with
  | .clr => Sys2Proof.Machine.execClr s
  | .pack w => Sys2Proof.Machine.execPack w s
  | .unpack w => Sys2Proof.Machine.execUnpack w s
  | .frame => Sys2Proof.Machine.execFrame s
  | .strip w => Sys2Proof.Machine.execStrip w s
  | .compress => Sys2Proof.Machine.execCompress s
  | .decompress => Sys2Proof.Machine.execDecompress s
  | .hide w ce => Sys2Proof.Machine.execHide w ce s
  | .extract w ce => Sys2Proof.Machine.execExtract w ce s
  | .sym1_0 => Sys2Proof.Machine.execSym1_0 s
  | .sym1_1 => Sys2Proof.Machine.execSym1_1 s
  | .sym2_00 => Sys2Proof.Machine.execSym2_00 s
  | .sym2_01 => Sys2Proof.Machine.execSym2_01 s
  | .sym2_10 => Sys2Proof.Machine.execSym2_10 s
  | .sym2_11 => Sys2Proof.Machine.execSym2_11 s
  | .marker => Sys2Proof.Machine.execMarker s

end Sys2Proof.Machine
end

