-- ==== Sys2Proof/Machine/HostMoves.lean ====
section
/-! DEFINITION. The step kinds of spec/10_state.md R22, one host move at a time, and how a code is placed where the
next step takes it (logs 1 to 3). -/

namespace Sys2Proof.Machine

/-- RegWrite(1, v): while STATE = BUSY the word is not decoded; otherwise it is decoded and its command runs, or
ILLEGAL_CMD is taken (10_state.md R31, 30_encoding.md R94, 60_exceptions.md R199). -/
def writeCmd (v : Word) (s : State) : Host.Outcome State Fault Refusal :=
  match s.seq with
  | .busy => .next (writeWhileBusy s)
  | .idle | .done | .fault =>
    match decodeCmd v with
    | .ok i => exec i s
    | .error _ => .next (illegalCommand v s)

/-- RegWrite(i, v): only CMD can be written; every other index is ignored (20_memory.md R60). -/
def regWrite (i : BitVec 3) (v : Word) (s : State) : Host.Outcome State Fault Refusal :=
  if i = cmdIndex then writeCmd v s else .next s

/-- The latched stream command takes the next token (10_state.md R34, 20_memory.md R68). -/
def runLatched (s : State) : Host.Outcome State Fault Refusal :=
  match decodeCmd s.cmd with
  | .ok i =>
    match pipelineOf i with
    | some _ => exec i s
    | none => .fault .noStreamCommand
  | .error _ => .fault .noStreamCommand

/-- The step Consume(t) where it is enabled: STATE = BUSY and a token on offer (10_state.md R22). A byte that the
opcode table lists at the latched width runs as that row, every other token under the latched command. Where the
step is not enabled nothing is handed over and the token stays with the host (20_memory.md R51; log 2). -/
def consumeNext (s : State) : Host.Outcome State Fault Refusal :=
  match s.seq with
  | .busy =>
    match s.inq with
    | [] => .next s
    | .eos :: _ => runLatched s
    | .byte b :: rest =>
      match decodeByte (latchedWidth s) b with
      | .ok i => exec i { s with inq := rest }
      | .error _ => runLatched s
  | .idle | .done | .fault => .next s

/-- One move of the host (10_state.md R22). -/
def perform (m : HostMove) (s : State) : Host.Outcome State Fault Refusal :=
  match m with
  | .reset => .next (resetBlock s)
  | .regRead i => .next (regRead i s)
  | .regWrite i v => regWrite i v s
  | .offer beat => .next (offerBeat beat s)
  | .discard => .next (withdraw s)
  | .consume => consumeNext s

/-- The next step: the host's next move, taken off the script; with no move planned nothing changes, since "every
step is caused by the host" (10_state.md R22; log 1). -/
def nextStep (s : State) : Host.Outcome State Fault Refusal :=
  match s.script with
  | [] => .next s
  | m :: rest => perform m { s with script := rest }

/-- A command word as the host's next move; STATE leaves BUSY first, since a word written while BUSY is not decoded
(30_encoding.md R94; log 3). -/
def placeWord (v : Word) (s : State) : State :=
  { s with
    seq := if s.seq = .busy then .idle else s.seq
    script := .regWrite cmdIndex v :: s.script }

/-- A byte as the next token of IN, with the attempt to hand it over as the host's next move. A byte is consumed
only while BUSY, so where no stream command of width 2 is latched UNPACK.2 is (log 3). -/
def placeByte (b : Byte) (s : State) : State :=
  let r : State :=
    if s.seq = .busy ∧ latchedWidth s = .w2 ∧ (latchedPipeline s).isSome then s
    else { s with seq := .busy, cmd := cmdWord 2#4 1#1 0#1 }
  { r with inq := .byte b :: r.inq, script := .consume :: r.script }

/-- The bits of an opcode-table row placed where the next step takes them (log 3). -/
def placeCode (nbits w : Nat) (s : State) : State :=
  if nbits ≤ 8 then placeByte (BitVec.ofNat 8 w) s else placeWord (BitVec.ofNat 32 w) s

end Sys2Proof.Machine
end

