-- ==== Sys2Proof/Machine/Step.lean ====
section
/-! DEFINITION. The step of the machine: one host move (spec/10_state.md R22). -/

namespace Sys2Proof.Machine

/-- One step (10_state.md R22). -/
def step (s : State) : Host.Outcome State Fault Refusal := nextStep s

/-- `s` with one instruction's bits placed where the next step takes its instruction: a command word as the host's
next write to CMD, a byte as the next token of IN (log 3). -/
def State.withFetchWord (s : State) (nbits w : Nat) : State := placeCode nbits w s

end Sys2Proof.Machine
end

