-- ==== Sys2Proof/Machine/Contracts.lean ====
section
/-! DEFINITION. The whole-sequence contracts (spec/00_scope.md R9), written over bits and groups
(spec/30_encoding.md R88) and not over tokens, so that their agreement with the machine says something. -/

namespace Sys2Proof.Machine

/-- bits8(b): the 8 bits of a byte, MSB first (30_encoding.md R88). -/
def bits8 (b : Byte) : Bits :=
  [b.getLsbD 7, b.getLsbD 6, b.getLsbD 5, b.getLsbD 4, b.getLsbD 3, b.getLsbD 2, b.getLsbD 1, b.getLsbD 0]

/-- bits_of(x): the bits of a byte sequence (30_encoding.md R88). -/
def bitsOf (x : Bytes) : Bits := x.flatMap bits8

/-- A bit as a number. -/
def bitVal (t : Bool) : Nat := if t then 1 else 0

/-- groups(t, 1) (30_encoding.md R88). -/
def groups1 (t : Bits) : List Nat :=
  match t with
  | [] => []
  | t0 :: r => bitVal t0 :: groups1 r

/-- groups(t, 2): the first bit of a group is its bit 1 (30_encoding.md R88, 20_memory.md R61). -/
def groups2 (t : Bits) : List Nat :=
  match t with
  | t0 :: t1 :: r => (2 * bitVal t0 + bitVal t1) :: groups2 r
  | _ => []

/-- groups(t, w): the complete groups of w bits, left to right (30_encoding.md R88). -/
def groups (w : Width) (t : Bits) : List Nat :=
  match w with
  | .w1 => groups1 t
  | .w2 => groups2 t

/-- pack(x, w) (40_pack_unpack.md R110). -/
def pack (w : Width) (x : Bytes) : Bytes := (groups w (bitsOf x)).map fun g => symbol (BitVec.ofNat 8 g)

/-- gbits_w(g): the w bits of a group, MSB first (30_encoding.md R88). -/
def groupBits (w : Width) (g : Byte) : Bits :=
  match w with
  | .w1 => [g.getLsbD 0]
  | .w2 => [g.getLsbD 1, g.getLsbD 0]

/-- byte_of: eight bits as a byte, MSB first (30_encoding.md R88). -/
def byteOf (t7 t6 t5 t4 t3 t2 t1 t0 : Bool) : Byte :=
  BitVec.ofNat 8 (128 * bitVal t7 + 64 * bitVal t6 + 32 * bitVal t5 + 16 * bitVal t4
    + 8 * bitVal t3 + 4 * bitVal t2 + 2 * bitVal t1 + bitVal t0)

/-- bytes_of: the complete bytes, the last |t| mod 8 bits dropped (30_encoding.md R88). -/
def bytesOf (t : Bits) : Bytes :=
  match t with
  | t7 :: t6 :: t5 :: t4 :: t3 :: t2 :: t1 :: t0 :: r => byteOf t7 t6 t5 t4 t3 t2 t1 t0 :: bytesOf r
  | _ => []

/-- The alphabet bytes of a sequence, in order (40_pack_unpack.md R115). -/
def kept (w : Width) (s : Bytes) : Bytes := s.filter fun b => inCod w b

/-- The bits the alphabet bytes of a sequence carry (40_pack_unpack.md R115). -/
def payloadBits (w : Width) (s : Bytes) : Bits := (kept w s).flatMap fun b => groupBits w (groupOf b)

/-- unpack(s, w) (40_pack_unpack.md R115). -/
def unpack (w : Width) (s : Bytes) : Bytes := bytesOf (payloadBits w s)

/-- frame(p) (42_framer_strip.md R150). -/
def frame (p : Bytes) : Bytes := [markerByte] ++ p

/-- The bytes of a sequence that are no alphabet bytes, in order (42_framer_strip.md R155). -/
def residue (w : Width) (c : Bytes) : Bytes := c.filter fun b => !inCod w b

/-- strip(c, w): at most one trailing marker goes (42_framer_strip.md R155, R158; 90_conflicts.md C2). -/
def strip (w : Width) (c : Bytes) : Bytes :=
  if (residue w c).getLast? = some markerByte then (residue w c).dropLast else residue w c

/-- hide(x, w, ce): compress, then pack, then frame (43_composite_control.md R172). -/
def hide (P : Params) (w : Width) (ce : Bool) (x : Bytes) : Bytes :=
  frame (pack w (if ce then P.zc x else x))

/-- extract(s, w, ce): unpack, then decompress; `none` is FAIL (43_composite_control.md R174). -/
def extract (P : Params) (w : Width) (ce : Bool) (s : Bytes) : Option Bytes :=
  if ce then P.zd (unpack w s) else some (unpack w s)

end Sys2Proof.Machine
end

