-- ==== Sys2Proof/Safety.lean ====
section
/-! DEFINITION. The terms in which claims about runs are stated: the invariant of the block, the part of a state the
control port cannot touch while an operation runs, and the runs of one whole operation. -/

namespace Sys2Proof.Machine

/-- The stages of the latched command; none where CMD holds no stream command (spec/43_composite_control.md
R170). -/
def latchedStages (s : State) : List Stage := (latchedPipeline s).getD []

/-- The latched command has an unpacker. -/
def hasUnpacker (s : State) : Bool :=
  decide (Stage.unpacker .w1 ∈ latchedStages s) || decide (Stage.unpacker .w2 ∈ latchedStages s)

/-- The latched command has a stripper. -/
def hasStripper (s : State) : Bool :=
  decide (Stage.stripper .w1 ∈ latchedStages s) || decide (Stage.stripper .w2 ∈ latchedStages s)

/-- The latched command has a framer. -/
def hasFramer (s : State) : Bool := decide (Stage.framer ∈ latchedStages s)

/-- The latched command has a compressor. -/
def hasCompressor (s : State) : Bool := decide (Stage.compressor ∈ latchedStages s)

/-- The latched command has a decompressor. -/
def hasDecompressor (s : State) : Bool := decide (Stage.decompressor ∈ latchedStages s)

/-- The working registers are at their reset values (10_state.md R24, R27). -/
structure WorkingClear (s : State) : Prop where
  acc : s.acc = 0#8
  nb : s.nb = 0#3
  sp : s.sp = false
  mkf : s.mkf = false
  ovf : s.ovf = false
  zbuf : s.zbuf = []

/-- What holds of the block between any two steps that follow a reset. -/
structure Inv (P : Params) (s : State) : Prop where
  /-- STATE = FAULT exactly when ERR is not 0 (10_state.md R24). -/
  fault_iff_err : s.seq = .fault ↔ s.err ≠ .none
  /-- Outside BUSY the working registers are at their reset values (10_state.md R24). -/
  clear_unless_busy : s.seq ≠ .busy → WorkingClear s
  /-- While BUSY, CMD holds a stream command, and in DONE the one that ended (10_state.md R24, R27). -/
  busy_stream : s.seq = .busy ∨ s.seq = .done → (latchedPipeline s).isSome = true
  /-- In IDLE, CMD is 0 (reset or CLR) and BUSYWR is 0 (10_state.md R32). -/
  idle_cmd : s.seq = .idle → s.cmd = 0#32 ∧ s.busywr = false
  /-- ILLEGAL_CMD leaves the illegal word in CMD and BUSYWR 0 (60_exceptions.md R191, 10_state.md R32). -/
  illegal_cmd : s.err = .illegalCmd → (decodeCmd s.cmd).toOption = none ∧ s.busywr = false
  /-- MALFORMED comes from a decompressor only (60_exceptions.md R190). -/
  malformed_cmd : s.err = .malformed → hasDecompressor s = true
  /-- OVERFLOW comes from the optional stage only (60_exceptions.md R190). -/
  overflow_cmd : s.err = .overflow → hasCompressor s = true ∨ hasDecompressor s = true
  /-- ZBUF holds at most ZBUF_CAP bytes (10_state.md R28). -/
  zbuf_fits : P.fits s.zbuf.length = true
  /-- OVF = 1 only while the buffer is full, and so never with ZBUF_CAP = INF (10_state.md R28). -/
  ovf_full : s.ovf = true → P.cap = some s.zbuf.length
  /-- The bits of ACC above bit NB - 1 are zero (10_state.md R25). -/
  acc_below : s.acc.toNat < 2 ^ s.nb.toNat
  /-- NB is a multiple of the latched width; for w = 2 it is even (10_state.md R25). -/
  nb_multiple : widthBits (latchedWidth s) ∣ s.nb.toNat
  /-- ACC and NB belong to the unpacker (10_state.md R25). -/
  acc_owner : hasUnpacker s = false → s.acc = 0#8 ∧ s.nb = 0#3
  /-- SP belongs to the stripper (10_state.md R26). -/
  sp_owner : hasStripper s = false → s.sp = false
  /-- MK belongs to the framer, and behind a compressor it is 0 between steps (10_state.md R26,
  43_composite_control.md R171). -/
  mkf_owner : hasFramer s = false ∨ hasCompressor s = true → s.mkf = false
  /-- ZBUF and OVF belong to the optional stage (10_state.md R28, 41_compressor.md R135). -/
  zbuf_owner : hasCompressor s = false → hasDecompressor s = false → s.zbuf = [] ∧ s.ovf = false
  /-- ZLEN_IN and ZLEN_OUT are 0 but after a compressor's run (10_state.md R33). -/
  sizes_owner : s.zlenIn ≠ 0#32 ∨ s.zlenOut ≠ 0#32 → s.seq = .done ∧ hasCompressor s = true

/-- Two states that agree on all but BUSYWR, the host's read history and its plans: what a data path can depend on
(20_memory.md R65, R68). -/
def SameData (s t : State) : Prop :=
  { s with busywr := t.busywr, readH := t.readH, script := t.script } = t

/-- A control-port access (20_memory.md R58). -/
def isAccess (m : HostMove) : Bool :=
  match m with
  | .regRead _ => true
  | .regWrite _ _ => true
  | .reset => false
  | .offer _ => false
  | .discard => false
  | .consume => false

/-- The input stream that carries `x` (20_memory.md R50). -/
def inputStream (x : Bytes) : List Token := x.map Token.byte ++ [.eos]

/-- The output stream that carries `y` and ends with `END(c)` (20_memory.md R50). -/
def outputStream (y : Bytes) (c : ErrCode) : List OutTok := y.map OutTok.byte ++ [.fin c]

/-- The host's moves of one whole operation over an input of n bytes: the write to CMD, then one hand-over for each
byte and one for END (43_composite_control.md R179 to R181). -/
def operationMoves (v : Word) (n : Nat) : List HostMove :=
  .regWrite cmdIndex v :: List.replicate (n + 1) .consume

/-- `s` with a whole operation ahead: the host will write `v` and hand over the bytes of `x` and END; more moves and
more tokens may stand behind. -/
structure Ahead (v : Word) (x : Bytes) (moves : List HostMove) (more : List Token) (s : State) : Prop where
  free : s.seq ≠ .busy
  script : s.script = operationMoves v x.length ++ moves
  inq : s.inq = inputStream x ++ more

/-- The state an operation with word `v` leaves behind, from `s`: everything R27 initialises, the outcome, and the
output stream appended (43_composite_control.md R175, 60_exceptions.md R196). -/
def afterOperation (v : Word) (y : Bytes) (c : ErrCode) (zi zo : Word) (moves : List HostMove)
    (more : List Token) (s : State) : State :=
  { seq := if c = .none then .done else .fault, err := c, busywr := false, cmd := v, zlenIn := zi, zlenOut := zo,
    acc := 0#8, nb := 0#3, sp := false, mkf := false, ovf := false, zbuf := [],
    outH := s.outH ++ outputStream y c, inq := more, script := moves, readH := s.readH }

/-- One whole operation: the block runs the operation ahead and answers `t`. -/
def runOperation (x : Bytes) (s : State) : Host.Outcome State Fault Refusal :=
  Host.Core.run Sys2Proof.core (x.length + 2) s

end Sys2Proof.Machine
end

