-- ==== Sys2Proof/Certificates/Slice0/Obligations.lean ====
section
/-! DEFINITION. The statements for the provers. Each docstring says which rule of spec/ the statement formalises.
The open parameters Zc, Zd and ZBUF_CAP are `Config.params`: a statement holds whatever they are. -/

namespace Sys2Proof.Claims

open Sys2Proof.Machine

/-- The eighteen legal words with their commands and texts, as spec/30_encoding.md R96 lists them. -/
def commandTable : List (Word × Instr × String) :=
  [(0x00#32, .clr, "CLR"), (0x01#32, .pack .w1, "PACK.1"), (0x11#32, .pack .w2, "PACK.2"),
   (0x02#32, .unpack .w1, "UNPACK.1"), (0x12#32, .unpack .w2, "UNPACK.2"), (0x03#32, .frame, "FRAME"),
   (0x04#32, .strip .w1, "STRIP.1"), (0x14#32, .strip .w2, "STRIP.2"), (0x05#32, .compress, "COMPRESS")] ++
  [(0x06#32, .decompress, "DECOMPRESS"), (0x07#32, .hide .w1 false, "HIDE.1"),
   (0x17#32, .hide .w2 false, "HIDE.2"), (0x27#32, .hide .w1 true, "HIDE.1.Z"),
   (0x37#32, .hide .w2 true, "HIDE.2.Z"), (0x08#32, .extract .w1 false, "EXTRACT.1"),
   (0x18#32, .extract .w2 false, "EXTRACT.2"), (0x28#32, .extract .w1 true, "EXTRACT.1.Z"),
   (0x38#32, .extract .w2 true, "EXTRACT.2.Z")]

/-- The legal words. -/
def legalWords : List Word := commandTable.map fun r => r.1

/-- The rows of the alphabet: instruction, width, group, byte (30_encoding.md R80). -/
def alphabetTable : List (Instr × Width × Byte × Byte) :=
  [(.sym1_0, .w1, 0#8, 0x1C#8), (.sym1_1, .w1, 1#8, 0x1D#8), (.sym2_00, .w2, 0#8, 0x1C#8),
   (.sym2_01, .w2, 1#8, 0x1D#8), (.sym2_10, .w2, 2#8, 0x1E#8), (.sym2_11, .w2, 3#8, 0x1F#8)]

/-- What 10_state.md R27 makes of `s` on a CMD write, with the STATE and ERR that R24 then sets. -/
def started (v : Word) (q : Seq) (e : ErrCode) (s : State) : State :=
  { s with
    seq := q, err := e, busywr := false, cmd := v, zlenIn := 0#32, zlenOut := 0#32, acc := 0#8, nb := 0#3,
    sp := false, mkf := false, ovf := false, zbuf := [] }

/-- What 60_exceptions.md R196 makes of `s` in the step that consumed END and left `q` on IN. -/
def faulted (c : ErrCode) (q : List Token) (s : State) : State :=
  { s with
    seq := .fault, err := c, acc := 0#8, nb := 0#3, sp := false, mkf := false, ovf := false, zbuf := [],
    inq := q, outH := s.outH ++ [.fin c] }

/-- What the optional stage makes of `s` on a byte (41_compressor.md R132). -/
def stored (b : Byte) (s : State) : State :=
  if Config.params.room s.zbuf.length then { s with zbuf := s.zbuf ++ [b] } else { s with ovf := true }

/-- The symbols of a byte, `0x1C + b[7 - w*i : 8 - w*(i+1)]` for i = 0 .. 8/w - 1, written out
(40_pack_unpack.md R111). -/
def packedByte (w : Width) (b : Byte) : Bytes :=
  match w with
  | .w1 => [7, 6, 5, 4, 3, 2, 1, 0].map fun k => 0x1C#8 + (if b.getLsbD k then 1#8 else 0#8)
  | .w2 => [6, 4, 2, 0].map fun k => 0x1C#8 + ((b >>> k) &&& 3#8)

/-- The marker that precedes the framer's first token (42_framer_strip.md R151). -/
def markerOnce (s : State) : List OutTok := if s.mkf then [] else [.byte 0x20#8]

/-- A bit sequence as a number, the earlier bit more significant (10_state.md R25). -/
def bitsVal (t : Bits) : Nat := t.foldl (fun a b => 2 * a + bitVal b) 0

/-- STATUS as a sum of its fields (10_state.md R32). -/
def statusNat (s : State) : Nat :=
  256 * (if s.busywr then 1 else 0) +
  16 * (match s.err with | .none => 0 | .illegalCmd => 1 | .malformed => 2 | .overflow => 3) +
  (match s.seq with | .idle => 0 | .busy => 1 | .done => 2 | .fault => 3)

/-- What the five registers and the unmapped indices read (20_memory.md R59). -/
def readsAs (i : BitVec 3) (s : State) : Word :=
  if i = 0#3 then 0x54530707#32
  else if i = 1#3 then s.cmd
  else if i = 2#3 then BitVec.ofNat 32 (statusNat s)
  else if i = 3#3 then s.zlenIn
  else if i = 4#3 then s.zlenOut
  else 0#32

end Sys2Proof.Claims

open Sys2Proof Sys2Proof.Machine Sys2Proof.Claims

/-! ### Encoding -/

/-- 30_encoding.md R96, R92 and R80, R84: the written-out words and bytes decode to what they stand for. A sanity
statement. -/
def Obligations.WrittenCodesDecodeToTheirInstructions : Prop :=
  (∀ r ∈ commandTable, decodeCmd r.1 = .ok r.2.1 ∧ textOf r.2.1 = r.2.2) ∧
  (∀ r ∈ alphabetTable, decodeByte r.2.1 r.2.2.2 = .ok r.1) ∧
  (∀ w, decodeByte w 0x20#8 = .ok .marker)

/-- 30_encoding.md R93: the legal words, by the four conditions on the bits and as the list of eighteen. -/
def Obligations.LegalWordsAreTheEighteen : Prop :=
  ∀ v : Word,
    ((∃ i, decodeCmd v = .ok i) ↔
      (v.toNat / 64 = 0 ∧ v.toNat % 16 ≤ 8 ∧
        (v.toNat % 16 ∈ [0, 3, 5, 6] → v.toNat / 16 % 2 = 0) ∧
        (v.toNat % 16 ∈ [0, 1, 2, 3, 4, 5, 6] → v.toNat / 32 % 2 = 0))) ∧
    ((∃ i, decodeCmd v = .ok i) ↔ v ∈ legalWords)

/-- The decoder and the encoder are inverse on every code: a code decodes to exactly the instruction it encodes, at
the widths at which its byte has that row (30_encoding.md R80, R95). -/
def Obligations.DecodeAndEncodeAreInverse : Prop :=
  ∀ (w : Width) (c : Code) (i : Instr), decode w c = .ok i ↔ (readAt w i = true ∧ encode i = c)

/-- 30_encoding.md R82: GRP_w is the reverse of SYM_w on COD(w), and in bits the low w bits of the byte. -/
def Obligations.GroupsAndSymbolsAreInverse : Prop :=
  (∀ (w : Width) (g : Byte), g.toNat < 2 ^ widthBits w →
    inCod w (symbol g) = true ∧ groupOf (symbol g) = g) ∧
  (∀ (w : Width) (b : Byte), inCod w b = true →
    symbol (groupOf b) = b ∧ groupOf b = b - 0x1C#8 ∧
    groupOf b = (match w with | .w1 => b &&& 1#8 | .w2 => b &&& 3#8))

/-- 30_encoding.md R80, R81, R83: the two codomains byte by byte, pairwise distinct symbols, and the marker outside
both. -/
def Obligations.CodomainsOfTheTwoWidths : Prop :=
  (∀ b, inCod .w1 b = true ↔ b ∈ [0x1C#8, 0x1D#8]) ∧
  (∀ b, inCod .w2 b = true ↔ b ∈ [0x1C#8, 0x1D#8, 0x1E#8, 0x1F#8]) ∧
  (∀ r ∈ alphabetTable, symbol r.2.2.1 = r.2.2.2) ∧
  (∀ w, inCod w markerByte = false)

/-- 30_encoding.md R86: the beats of the two ports; the data bits of an IN end beat are ignored. -/
def Obligations.BeatsCarryTokens : Prop :=
  (∀ b : Byte, tokenOfBeat (0#1 ++ b) = .byte b) ∧
  (∀ d : Byte, tokenOfBeat (1#1 ++ d) = .eos) ∧
  (∀ b : Byte, beatOfOut (.byte b) = 0#1 ++ b) ∧
  (beatOfOut (.fin .none) = 0b100000000#9 ∧ beatOfOut (.fin .illegalCmd) = 0b100000001#9 ∧
    beatOfOut (.fin .malformed) = 0b100000010#9 ∧ beatOfOut (.fin .overflow) = 0b100000011#9)

/-! ### The control port, reset and what the host can do -/

/-- A step runs the decoded instruction: a written word, a byte of the opcode table, or, for every other token, the
latched command (10_state.md R22, R31, R34; logs 1, 4, 5). -/
def Obligations.StepRunsTheDecodedInstruction : Prop :=
  (∀ (s : State) (v : Word) (rest : List HostMove) (i : Instr),
    s.script = .regWrite 1#3 v :: rest → s.seq ≠ .busy → decodeCmd v = .ok i →
    step s = exec i { s with script := rest }) ∧
  (∀ (s : State) (b : Byte) (rest : List HostMove) (q : List Token) (i : Instr),
    s.script = .consume :: rest → s.seq = .busy → s.inq = .byte b :: q → decodeByte (latchedWidth s) b = .ok i →
    step s = exec i { s with script := rest, inq := q }) ∧
  (∀ (s : State) (b : Byte) (rest : List HostMove) (q : List Token) (e : Reject) (i : Instr),
    s.script = .consume :: rest → s.seq = .busy → s.inq = .byte b :: q → decodeByte (latchedWidth s) b = .error e →
    decodeCmd s.cmd = .ok i → (pipelineOf i).isSome = true →
    step s = exec i { s with script := rest }) ∧
  (∀ (s : State) (rest : List HostMove) (q : List Token) (i : Instr),
    s.script = .consume :: rest → s.seq = .busy → s.inq = .eos :: q →
    decodeCmd s.cmd = .ok i → (pipelineOf i).isSome = true →
    step s = exec i { s with script := rest })

/-- 20_memory.md R59: what each index reads; a read changes nothing of the block (the host's own history of read
values, log 8, takes the value). -/
def Obligations.RegisterReadsHaveNoSideEffect : Prop :=
  ∀ (s : State) (i : BitVec 3) (rest : List HostMove), s.script = .regRead i :: rest →
    step s = .next { s with script := rest, readH := s.readH ++ [(i, readsAs i s)] }

/-- 20_memory.md R60: writes to every index but 1 are ignored, and the write to CMD is not idempotent. -/
def Obligations.OnlyCmdCanBeWritten : Prop :=
  (∀ (s : State) (i : BitVec 3) (v : Word) (rest : List HostMove),
    s.script = .regWrite i v :: rest → i ≠ 1#3 → step s = .next { s with script := rest }) ∧
  (∀ (s : State) (v : Word) (rest : List HostMove),
    s.script = .regWrite 1#3 v :: .regWrite 1#3 v :: rest → s.seq ≠ .busy → v ∈ legalWords → v ≠ 0#32 →
    Host.Core.run Sys2Proof.core 2 s =
      .next { started v .busy .none s with script := rest, busywr := true })

/-- 10_state.md R27: every CMD write while STATE is not BUSY makes the same initial state whatever came before, and then
sets STATE and ERR as R24 says; and the latched word then stands until the operation ends: no step that leaves the
block BUSY changes it. -/
def Obligations.EveryCmdWriteInitialises : Prop :=
  (∀ (s : State) (v : Word) (rest : List HostMove), s.script = .regWrite 1#3 v :: rest → s.seq ≠ .busy →
    step s = .next
      { (if v = 0#32 then started v .idle .none s
         else if v ∈ legalWords then started v .busy .none s
         else started v .fault .illegalCmd s) with script := rest }) ∧
  (∀ s t : State, s.seq = .busy → step s = .next t → t.seq = .busy → t.cmd = s.cmd)

/-- A stream command's meaning, while STATE is not BUSY, is to be started (10_state.md R27, R31; log 4). -/
def Obligations.StreamCommandsStartFresh : Prop :=
  ∀ (s : State) (i : Instr) (v : Word), s.seq ≠ .busy → i ≠ .clr → encode i = .cmd v →
    exec i s = .next (started v .busy .none s)

/-- 43_composite_control.md R176: CLR, the word 0, returns to IDLE and clears status; while BUSY it only sets BUSYWR. -/
def Obligations.ClrReturnsToIdle : Prop :=
  encode .clr = .cmd 0x00000000#32 ∧
  (∀ s : State, s.seq ≠ .busy → exec .clr s = .next (started 0#32 .idle .none s)) ∧
  (∀ s : State, s.seq = .busy → exec .clr s = .next { s with busywr := true })

/-- 60_exceptions.md R191: an illegal word written while STATE is not BUSY takes ILLEGAL_CMD; STATUS then reads
0x013; no token is consumed and nothing is appended to OUT. -/
def Obligations.IllegalWordTakesIllegalCmd : Prop :=
  ∀ (s : State) (v : Word) (rest : List HostMove),
    s.script = .regWrite 1#3 v :: rest → s.seq ≠ .busy → v ∉ legalWords →
    step s = .next { started v .fault .illegalCmd s with script := rest } ∧
    statusWord (started v .fault .illegalCmd s) = 0x013#32

/-- 10_state.md R31, 20_memory.md R68, 30_encoding.md R94: any word, legal or not, written while BUSY changes nothing
but BUSYWR. -/
def Obligations.WriteWhileBusyOnlySetsBusyWr : Prop :=
  ∀ (s : State) (v : Word) (rest : List HostMove),
    s.script = .regWrite 1#3 v :: rest → s.seq = .busy →
    step s = .next { s with script := rest, busywr := true }

/-- 10_state.md R38: Reset sets every item of the block, discards an operation in progress without an END, and leaves
the host's tokens and the OUT history; and the state after reset has the same values. -/
def Obligations.ResetSetsEveryItem : Prop :=
  (∀ (s : State) (rest : List HostMove), s.script = .reset :: rest →
    step s = .next { started 0#32 .idle .none s with script := rest } ∧
    readsAs 2#3 (started 0#32 .idle .none s) = 0x00000000#32 ∧
    readsAs 0#3 (started 0#32 .idle .none s) = 0x54530707#32) ∧
  State.reset = started 0#32 .idle .none State.reset

/-- 20_memory.md R51: a token offered while STATE is not BUSY is neither consumed nor dropped (that the attempt then
passes without effect is log 2). -/
def Obligations.TokensStayWithTheHostUnlessBusy : Prop :=
  ∀ (s : State) (rest : List HostMove), s.script = .consume :: rest → s.seq ≠ .busy →
    step s = .next { s with script := rest }

/-- The host's own acts on the IN port: a beat offered goes behind the tokens on offer, a token withdrawn is the
oldest one; the block does not change (20_memory.md R51, 30_encoding.md R86; log 1). -/
def Obligations.OfferingAndWithdrawingTouchOnlyIn : Prop :=
  (∀ (s : State) (beat : BitVec 9) (rest : List HostMove), s.script = .offer beat :: rest →
    step s = .next { s with script := rest, inq := s.inq ++ [tokenOfBeat beat] }) ∧
  (∀ (s : State) (rest : List HostMove), s.script = .discard :: rest →
    step s = .next { s with script := rest, inq := s.inq.drop 1 })

/-! ### One token of each command -/

/-- 40_pack_unpack.md R111: PACK's two words, and PACK on a byte and on END. -/
def Obligations.PackConsumesOneToken : Prop :=
  (encode (.pack .w1) = .cmd 0x00000001#32 ∧ encode (.pack .w2) = .cmd 0x00000011#32) ∧
  (∀ (w : Width) (s : State) (b : Byte) (q : List Token), s.seq = .busy → s.inq = .byte b :: q →
    exec (.pack w) s =
      .next { s with inq := q, outH := s.outH ++ (packedByte w b).map .byte }) ∧
  (∀ (w : Width) (s : State) (q : List Token), s.seq = .busy → s.inq = .eos :: q →
    exec (.pack w) s = .next { s with inq := q, seq := .done, outH := s.outH ++ [.fin .none] })

/-- 40_pack_unpack.md R116: UNPACK's two words, and UNPACK on an alphabet byte, on another byte and on END. NB is a multiple of w, as in every
state a run reaches (10_state.md R25; the invariant's `nb_multiple`). -/
def Obligations.UnpackConsumesOneToken : Prop :=
  (encode (.unpack .w1) = .cmd 0x00000002#32 ∧ encode (.unpack .w2) = .cmd 0x00000012#32) ∧
  (∀ (w : Width) (s : State) (b : Byte) (q : List Token), s.seq = .busy → s.inq = .byte b :: q →
    widthBits w ∣ s.nb.toNat → (0x1C ≤ b.toNat ∧ b.toNat < 0x1C + 2 ^ widthBits w) →
    exec (.unpack w) s =
      if s.nb.toNat + widthBits w = 8 then
        .next { s with
          inq := q, acc := 0#8, nb := 0#3
          outH := s.outH ++ [.byte ((s.acc <<< widthBits w) ||| (b - 0x1C#8))] }
      else
        .next { s with
          inq := q, acc := (s.acc <<< widthBits w) ||| (b - 0x1C#8)
          nb := BitVec.ofNat 3 (s.nb.toNat + widthBits w) }) ∧
  (∀ (w : Width) (s : State) (b : Byte) (q : List Token), s.seq = .busy → s.inq = .byte b :: q →
    ¬ (0x1C ≤ b.toNat ∧ b.toNat < 0x1C + 2 ^ widthBits w) →
    exec (.unpack w) s = .next { s with inq := q }) ∧
  (∀ (w : Width) (s : State) (q : List Token), s.seq = .busy → s.inq = .eos :: q →
    exec (.unpack w) s =
      .next { s with inq := q, acc := 0#8, nb := 0#3, seq := .done, outH := s.outH ++ [.fin .none] })

/-- 42_framer_strip.md R151: FRAME's word, and FRAME on a byte and on END. -/
def Obligations.FrameConsumesOneToken : Prop :=
  encode .frame = .cmd 0x00000003#32 ∧
  (∀ (s : State) (b : Byte) (q : List Token), s.seq = .busy → s.inq = .byte b :: q →
    exec .frame s =
      .next { s with inq := q, mkf := true, outH := s.outH ++ markerOnce s ++ [.byte b] }) ∧
  (∀ (s : State) (q : List Token), s.seq = .busy → s.inq = .eos :: q →
    exec .frame s =
      .next { s with inq := q, mkf := false, seq := .done, outH := s.outH ++ markerOnce s ++ [.fin .none] })

/-- 42_framer_strip.md R156: STRIP's two words, and STRIP on an alphabet byte, on a space, on another byte and on END. -/
def Obligations.StripConsumesOneToken : Prop :=
  (encode (.strip .w1) = .cmd 0x00000004#32 ∧ encode (.strip .w2) = .cmd 0x00000014#32) ∧
  (∀ (w : Width) (s : State) (b : Byte) (q : List Token), s.seq = .busy → s.inq = .byte b :: q →
    exec (.strip w) s =
      if 0x1C ≤ b.toNat ∧ b.toNat < 0x1C + 2 ^ widthBits w then .next { s with inq := q }
      else if b = 0x20#8 then
        .next { s with inq := q, sp := true, outH := s.outH ++ (if s.sp then [.byte 0x20#8] else []) }
      else
        .next { s with
          inq := q, sp := false
          outH := s.outH ++ (if s.sp then [.byte 0x20#8] else []) ++ [.byte b] }) ∧
  (∀ (w : Width) (s : State) (q : List Token), s.seq = .busy → s.inq = .eos :: q →
    exec (.strip w) s = .next { s with inq := q, sp := false, seq := .done, outH := s.outH ++ [.fin .none] })

/-- 41_compressor.md R133: COMPRESS's word, and COMPRESS on a byte, and on END after an overflow or without one. -/
def Obligations.CompressConsumesOneToken : Prop :=
  encode .compress = .cmd 0x00000005#32 ∧
  (∀ (s : State) (b : Byte) (q : List Token), s.seq = .busy → s.inq = .byte b :: q →
    exec .compress s = .next { stored b s with inq := q }) ∧
  (∀ (s : State) (q : List Token), s.seq = .busy → s.inq = .eos :: q →
    exec .compress s =
      if s.ovf then .next (faulted .overflow q s)
      else
        .next { s with
          inq := q, zlenIn := BitVec.ofNat 32 (min s.zbuf.length 4294967295)
          zlenOut := BitVec.ofNat 32 (min (Config.params.zc s.zbuf).length 4294967295), zbuf := []
          seq := .done, outH := s.outH ++ outputStream (Config.params.zc s.zbuf) .none })

/-- 41_compressor.md R134: DECOMPRESS's word, and DECOMPRESS on a byte, and on END with its three checks in order. -/
def Obligations.DecompressConsumesOneToken : Prop :=
  encode .decompress = .cmd 0x00000006#32 ∧
  (∀ (s : State) (b : Byte) (q : List Token), s.seq = .busy → s.inq = .byte b :: q →
    exec .decompress s = .next { stored b s with inq := q }) ∧
  (∀ (s : State) (q : List Token), s.seq = .busy → s.inq = .eos :: q →
    exec .decompress s =
      if s.ovf then .next (faulted .overflow q s)
      else match Config.params.zd s.zbuf with
        | none => .next (faulted .malformed q s)
        | some r =>
          if Config.params.fits r.length then
            .next { s with inq := q, zbuf := [], seq := .done, outH := s.outH ++ outputStream r .none }
          else .next (faulted .overflow q s))

/-- 43_composite_control.md R171: HIDE as the rule writes it out, without and with the optional stage. With it MK is
0 before END, as in every state a run reaches (the invariant's `mkf_owner`). -/
def Obligations.HideConsumesOneToken : Prop :=
  (encode (.hide .w1 false) = .cmd 0x00000007#32 ∧ encode (.hide .w2 false) = .cmd 0x00000017#32 ∧
    encode (.hide .w1 true) = .cmd 0x00000027#32 ∧ encode (.hide .w2 true) = .cmd 0x00000037#32) ∧
  (∀ (w : Width) (s : State) (b : Byte) (q : List Token), s.seq = .busy → s.inq = .byte b :: q →
    exec (.hide w false) s =
      .next { s with
        inq := q, mkf := true, outH := s.outH ++ markerOnce s ++ (packedByte w b).map .byte }) ∧
  (∀ (w : Width) (s : State) (q : List Token), s.seq = .busy → s.inq = .eos :: q →
    exec (.hide w false) s =
      .next { s with inq := q, mkf := false, seq := .done, outH := s.outH ++ markerOnce s ++ [.fin .none] }) ∧
  (∀ (w : Width) (s : State) (b : Byte) (q : List Token), s.seq = .busy → s.inq = .byte b :: q →
    exec (.hide w true) s = .next { stored b s with inq := q }) ∧
  (∀ (w : Width) (s : State) (q : List Token), s.seq = .busy → s.inq = .eos :: q → s.mkf = false →
    exec (.hide w true) s =
      if s.ovf then .next (faulted .overflow q s)
      else
        .next { s with
          inq := q, zlenIn := BitVec.ofNat 32 (min s.zbuf.length 4294967295)
          zlenOut := BitVec.ofNat 32 (min (Config.params.zc s.zbuf).length 4294967295), zbuf := []
          seq := .done
          outH := s.outH ++
            outputStream (0x20#8 :: (Config.params.zc s.zbuf).flatMap (packedByte w)) .none })

/-- 43_composite_control.md R173: EXTRACT without the optional stage is UNPACK; with it the unpacked byte goes to
ZBUF and END is judged as in DECOMPRESS. -/
def Obligations.ExtractConsumesOneToken : Prop :=
  (encode (.extract .w1 false) = .cmd 0x00000008#32 ∧ encode (.extract .w2 false) = .cmd 0x00000018#32 ∧
    encode (.extract .w1 true) = .cmd 0x00000028#32 ∧ encode (.extract .w2 true) = .cmd 0x00000038#32) ∧
  (∀ (w : Width) (s : State), s.seq = .busy → exec (.extract w false) s = exec (.unpack w) s) ∧
  (∀ (w : Width) (s : State) (b : Byte) (q : List Token), s.seq = .busy → s.inq = .byte b :: q →
    widthBits w ∣ s.nb.toNat → (0x1C ≤ b.toNat ∧ b.toNat < 0x1C + 2 ^ widthBits w) →
    exec (.extract w true) s =
      if s.nb.toNat + widthBits w = 8 then
        .next { stored ((s.acc <<< widthBits w) ||| (b - 0x1C#8)) s with inq := q, acc := 0#8, nb := 0#3 }
      else
        .next { s with
          inq := q, acc := (s.acc <<< widthBits w) ||| (b - 0x1C#8)
          nb := BitVec.ofNat 3 (s.nb.toNat + widthBits w) }) ∧
  (∀ (w : Width) (s : State) (b : Byte) (q : List Token), s.seq = .busy → s.inq = .byte b :: q →
    ¬ (0x1C ≤ b.toNat ∧ b.toNat < 0x1C + 2 ^ widthBits w) →
    exec (.extract w true) s = .next { s with inq := q }) ∧
  (∀ (w : Width) (s : State) (q : List Token), s.seq = .busy → s.inq = .eos :: q →
    exec (.extract w true) s =
      if s.ovf then .next (faulted .overflow q s)
      else match Config.params.zd s.zbuf with
        | none => .next (faulted .malformed q s)
        | some r =>
          if Config.params.fits r.length then
            .next { s with
              inq := q, acc := 0#8, nb := 0#3, zbuf := [], seq := .done
              outH := s.outH ++ outputStream r .none }
          else .next (faulted .overflow q s))

/-- A stream command that is BUSY with no token on offer waits, unchanged (60_exceptions.md R210; log 4). -/
def Obligations.BusyCommandsWaitForAToken : Prop :=
  ∀ (s : State) (i : Instr), (pipelineOf i).isSome = true → s.seq = .busy → s.inq = [] → exec i s = .next s

/-- The symbol rows under UNPACK at their own width: the group's bits are shifted in at the low end of ACC, and the
eighth bit completes a byte (30_encoding.md R80, R82; 40_pack_unpack.md R116); the marker is ignored (R84). That a byte row means Consume of its byte is log 5. -/
def Obligations.SymbolsShiftTheirBitsIn : Prop :=
  (∀ r ∈ alphabetTable, ∀ s : State, s.seq = .busy → encode (.unpack r.2.1) = .cmd s.cmd →
    widthBits r.2.1 ∣ s.nb.toNat →
    exec r.1 s =
      if s.nb.toNat + widthBits r.2.1 = 8 then
        .next { s with
          acc := 0#8, nb := 0#3
          outH := s.outH ++ [.byte ((s.acc <<< widthBits r.2.1) ||| r.2.2.1)] }
      else
        .next { s with
          acc := (s.acc <<< widthBits r.2.1) ||| r.2.2.1
          nb := BitVec.ofNat 3 (s.nb.toNat + widthBits r.2.1) }) ∧
  (∀ (w : Width) (s : State), s.seq = .busy → encode (.unpack w) = .cmd s.cmd → exec .marker s = .next s)

/-- The byte rows under STRIP: a symbol at its own width is removed, a marker is held back, and one already held back
is emitted first (42_framer_strip.md R156). That a byte row means Consume of its byte is log 5. -/
def Obligations.StripRemovesSymbolsAndHoldsTheMarker : Prop :=
  (∀ r ∈ alphabetTable, ∀ s : State, s.seq = .busy → encode (.strip r.2.1) = .cmd s.cmd → exec r.1 s = .next s) ∧
  (∀ (w : Width) (s : State), s.seq = .busy → encode (.strip w) = .cmd s.cmd →
    exec .marker s =
      .next { s with sp := true, outH := s.outH ++ (if s.sp then [.byte 0x20#8] else []) })

/-- A byte row is consumed as the latched command consumes any byte (43_composite_control.md R170). The last clause,
that outside BUSY the byte goes back to the head of IN, is no rule of the spec but the model's DESIGN CHOICE, log 5:
no step runs a byte row there. -/
def Obligations.ByteRowsAreTokensOfTheLatchedCommand : Prop :=
  (∀ (s : State) (i c : Instr) (b : Byte), encode i = .byte b → s.seq = .busy → decodeCmd s.cmd = .ok c →
    (pipelineOf c).isSome = true → exec i s = exec c { s with inq := .byte b :: s.inq }) ∧
  (∀ (s : State) (i : Instr) (b : Byte), encode i = .byte b → s.seq ≠ .busy →
    exec i s = .next { s with inq := .byte b :: s.inq })

/-! ### Frames -/

/-- What PACK, UNPACK, FRAME, STRIP, and HIDE and EXTRACT without the optional stage leave unchanged while BUSY: CMD,
BUSYWR, ERR, both lengths, OVF, ZBUF and the working registers of every other stage; the OUT history only grows; one
token at most leaves IN (10_state.md R25, R26, R35; 41_compressor.md R135). -/
def Obligations.ByteStageCommandsFrame : Prop :=
  ∀ (s t : State) (i : Instr) (w : Width), s.seq = .busy → exec i s = .next t →
    i ∈ [.pack w, .unpack w, .frame, .strip w, .hide w false, .extract w false] →
    t.cmd = s.cmd ∧ t.busywr = s.busywr ∧ t.err = s.err ∧ t.zlenIn = s.zlenIn ∧ t.zlenOut = s.zlenOut ∧
    t.ovf = s.ovf ∧ t.zbuf = s.zbuf ∧ t.script = s.script ∧ t.readH = s.readH ∧ t.inq = s.inq.drop 1 ∧
    (∃ o, t.outH = s.outH ++ o) ∧
    (i ∉ [.unpack w, .extract w false] → t.acc = s.acc ∧ t.nb = s.nb) ∧
    (i ≠ .strip w → t.sp = s.sp) ∧
    (i ∉ [.frame, .hide w false] → t.mkf = s.mkf)

/-- What COMPRESS, DECOMPRESS, and HIDE and EXTRACT with the optional stage leave unchanged while BUSY: CMD, BUSYWR,
the host's side; both lengths but for a compressor's END; and, but for a fault at END, which clears all working
registers (60_exceptions.md R196), ERR and the working registers of every other stage. -/
def Obligations.OptionalStageCommandsFrame : Prop :=
  ∀ (s t : State) (i : Instr) (w : Width), s.seq = .busy → exec i s = .next t →
    i ∈ [.compress, .decompress, .hide w true, .extract w true] →
    t.cmd = s.cmd ∧ t.busywr = s.busywr ∧ t.script = s.script ∧ t.readH = s.readH ∧ t.inq = s.inq.drop 1 ∧
    (∃ o, t.outH = s.outH ++ o) ∧
    (t.seq ≠ .done ∨ i ∉ [.compress, .hide w true] → t.zlenIn = s.zlenIn ∧ t.zlenOut = s.zlenOut) ∧
    (t.seq ≠ .fault →
      t.err = s.err ∧ t.sp = s.sp ∧ (i ≠ .extract w true → t.acc = s.acc ∧ t.nb = s.nb) ∧
      (i ≠ .hide w true → t.mkf = s.mkf) ∧ (t.seq = .busy → t.outH = s.outH ∧ t.mkf = s.mkf))

/-- What the seven byte rows leave unchanged: CMD, BUSYWR, ERR, STATE, both lengths and the host's plans always; the
OUT history only grows (10_state.md R24 to R26, R28, R33). The last clause, that outside BUSY the byte goes back to
the head of IN and nothing else differs, is no rule of the spec but the model's DESIGN CHOICE, log 5: no step runs a
byte row there. -/
def Obligations.ByteRowsFrame : Prop :=
  ∀ (s t : State) (i : Instr) (b : Byte), encode i = .byte b → exec i s = .next t →
    t.cmd = s.cmd ∧ t.busywr = s.busywr ∧ t.err = s.err ∧ t.seq = s.seq ∧ t.zlenIn = s.zlenIn ∧
    t.zlenOut = s.zlenOut ∧ t.script = s.script ∧ t.readH = s.readH ∧ (∃ o, t.outH = s.outH ++ o) ∧
    (s.seq = .busy → t.inq = s.inq) ∧
    (hasUnpacker s = false → s.seq = .busy → t.acc = s.acc ∧ t.nb = s.nb) ∧
    (hasStripper s = false → s.seq = .busy → t.sp = s.sp) ∧
    (hasFramer s = false → s.seq = .busy → t.mkf = s.mkf) ∧
    (hasCompressor s = false → hasDecompressor s = false → s.seq = .busy → t.zbuf = s.zbuf ∧ t.ovf = s.ovf) ∧
    (s.seq ≠ .busy → t = { s with inq := .byte b :: s.inq })

/-! ### Whole operations -/

/-- 40_pack_unpack.md R114: a PACK operation appends exactly pack(x, w) and END(0) and ends in DONE; here with every
other item of the state it leaves. -/
def Obligations.PackOperationEmitsPack : Prop :=
  ∀ (w : Width) (x : Bytes) (v : Word) (moves : List HostMove) (more : List Token) (s : State),
    encode (.pack w) = .cmd v → Ahead v x moves more s →
    runOperation x s = .next (afterOperation v (pack w x) .none 0#32 0#32 moves more s)

/-- 40_pack_unpack.md R120: an UNPACK operation appends exactly unpack(s, w) and END(0), and after each prefix p the
bytes emitted are unpack(p, w), NB counts the leftover bits and ACC holds them, oldest first. -/
def Obligations.UnpackOperationEmitsUnpack : Prop :=
  ∀ (w : Width) (x : Bytes) (v : Word) (moves : List HostMove) (more : List Token) (s : State),
    encode (.unpack w) = .cmd v → Ahead v x moves more s →
    runOperation x s = .next (afterOperation v (unpack w x) .none 0#32 0#32 moves more s) ∧
    ∀ p r, x = p ++ r → ∃ t, Host.Core.run Sys2Proof.core (p.length + 1) s = .next t ∧
      t.seq = .busy ∧ t.outH = s.outH ++ (unpack w p).map .byte ∧
      t.nb.toNat = widthBits w * (kept w p).length % 8 ∧
      t.acc.toNat = bitsVal ((payloadBits w p).drop ((payloadBits w p).length - t.nb.toNat))

/-- 42_framer_strip.md R153: a FRAME operation appends exactly frame(p) and END(0), and MK ends 0. -/
def Obligations.FrameOperationEmitsFrame : Prop :=
  ∀ (x : Bytes) (v : Word) (moves : List HostMove) (more : List Token) (s : State),
    encode .frame = .cmd v → Ahead v x moves more s →
    runOperation x s = .next (afterOperation v (frame x) .none 0#32 0#32 moves more s)

/-- 42_framer_strip.md R159: a STRIP operation appends exactly strip(c, w) and END(0), and after each prefix p the
bytes emitted are strip(p, w) and SP says whether the last kept byte is a held-back space. -/
def Obligations.StripOperationEmitsStrip : Prop :=
  ∀ (w : Width) (x : Bytes) (v : Word) (moves : List HostMove) (more : List Token) (s : State),
    encode (.strip w) = .cmd v → Ahead v x moves more s →
    runOperation x s = .next (afterOperation v (strip w x) .none 0#32 0#32 moves more s) ∧
    ∀ p r, x = p ++ r → ∃ t, Host.Core.run Sys2Proof.core (p.length + 1) s = .next t ∧
      t.seq = .busy ∧ (t.sp = true ↔ (residue w p).getLast? = some 0x20#8) ∧
      t.outH = s.outH ++ (strip w p).map .byte ∧
      t.outH = s.outH ++ (if t.sp then (residue w p).dropLast else residue w p).map .byte

/-- 41_compressor.md R139: COMPRESS and DECOMPRESS over a whole input, within the buffer and beyond it, and
DECOMPRESS on what COMPRESS emits. -/
def Obligations.OptionalStageOperations : Prop :=
  ∀ (x : Bytes) (moves : List HostMove) (more : List Token) (s : State),
    (∀ v, encode .compress = .cmd v → Ahead v x moves more s →
      runOperation x s = .next (
        if Config.params.fits x.length then
          afterOperation v (Config.params.zc x) .none (sat32 x.length) (sat32 (Config.params.zc x).length) moves
            more s
        else afterOperation v [] .overflow 0#32 0#32 moves more s)) ∧
    (∀ v, encode .decompress = .cmd v → Ahead v x moves more s →
      runOperation x s = .next (
        if Config.params.fits x.length then
          match Config.params.zd x with
          | none => afterOperation v [] .malformed 0#32 0#32 moves more s
          | some r =>
            if Config.params.fits r.length then afterOperation v r .none 0#32 0#32 moves more s
            else afterOperation v [] .overflow 0#32 0#32 moves more s
        else afterOperation v [] .overflow 0#32 0#32 moves more s)) ∧
    (∀ v, encode .decompress = .cmd v → Ahead v (Config.params.zc x) moves more s →
      runOperation (Config.params.zc x) s = .next (
        if Config.params.fits x.length && Config.params.fits (Config.params.zc x).length then
          afterOperation v x .none 0#32 0#32 moves more s
        else afterOperation v [] .overflow 0#32 0#32 moves more s))

/-- 43_composite_control.md R177, first half: what HIDE and EXTRACT put on OUT, with and without the optional stage,
and the state they leave. -/
def Obligations.HideAndExtractOperations : Prop :=
  ∀ (w : Width) (ce : Bool) (x : Bytes) (moves : List HostMove) (more : List Token) (s : State),
    (∀ v, encode (.hide w ce) = .cmd v → Ahead v x moves more s →
      runOperation x s = .next (
        if ce = false then afterOperation v (hide Config.params w false x) .none 0#32 0#32 moves more s
        else if Config.params.fits x.length then
          afterOperation v (hide Config.params w true x) .none (sat32 x.length)
            (sat32 (Config.params.zc x).length) moves more s
        else afterOperation v [] .overflow 0#32 0#32 moves more s)) ∧
    (∀ v, encode (.extract w ce) = .cmd v → Ahead v x moves more s →
      runOperation x s = .next (
        if ce = false then afterOperation v (unpack w x) .none 0#32 0#32 moves more s
        else if Config.params.fits (unpack w x).length then
          match extract Config.params w true x with
          | none => afterOperation v [] .malformed 0#32 0#32 moves more s
          | some r =>
            if Config.params.fits r.length then afterOperation v r .none 0#32 0#32 moves more s
            else afterOperation v [] .overflow 0#32 0#32 moves more s
        else afterOperation v [] .overflow 0#32 0#32 moves more s))

/-- 43_composite_control.md R177, second half: end to end through a carrier that holds no alphabet byte, the secret
comes back and the carrier comes back, with and without the optional stage. -/
def Obligations.HiddenSecretsComeBack : Prop :=
  ∀ (P : Params) (w : Width) (ce : Bool) (c x : Bytes), (∀ b ∈ c, inCod w b = false) →
    extract P w ce (c ++ hide P w ce x) = some x ∧ strip w (c ++ hide P w ce x) = c

/-! ### The contracts -/

/-- 40_pack_unpack.md R119: the round trip at the matching width, the empty sequence included, through any stream
whose alphabet bytes are the packed ones; not at another width. -/
def Obligations.UnpackInvertsPack : Prop :=
  (∀ (w : Width) (x : Bytes), unpack w (pack w x) = x) ∧
  (∀ (w : Width) (x s : Bytes), kept w s = pack w x → unpack w s = x) ∧
  (∀ w w' : Width, w ≠ w' → ∃ x, unpack w' (pack w x) ≠ x)

/-- 40_pack_unpack.md R112: length, alphabet, injectivity and concatenation of pack. -/
def Obligations.PackLengthAlphabetAndConcatenation : Prop :=
  ∀ w : Width,
    (∀ x, (pack w x).length = 8 * x.length / widthBits w ∧ 8 * x.length % widthBits w = 0) ∧
    (∀ x, ∀ b ∈ pack w x, inCod w b = true) ∧
    (∀ x y, pack w x = pack w y → x = y) ∧
    (∀ x y, pack w (x ++ y) = pack w x ++ pack w y)

/-- 40_pack_unpack.md R121: the length of unpack, and when it goes through a concatenation. -/
def Obligations.UnpackLengthAndConcatenation : Prop :=
  ∀ w : Width,
    (∀ s, (unpack w s).length = widthBits w * (kept w s).length / 8) ∧
    (∀ s t, 8 ∣ widthBits w * (kept w s).length → unpack w (s ++ t) = unpack w s ++ unpack w t) ∧
    (∃ s t, unpack w (s ++ t) ≠ unpack w s ++ unpack w t)

/-- 40_pack_unpack.md R118: a byte that is no alphabet byte changes no register and emits nothing under UNPACK, and
such bytes anywhere do not change the unpacked result; 0x1E and 0x1F are among them at width 1; an alphabet byte
that the packer did not put there is decoded as payload. -/
def Obligations.NoiseDoesNotChangeUnpack : Prop :=
  (∀ (w : Width) (s : State) (b : Byte) (q : List Token), s.seq = .busy → s.inq = .byte b :: q →
    inCod w b = false → exec (.unpack w) s = .next { s with inq := q }) ∧
  (∀ (w : Width) (s : Bytes), unpack w s = unpack w (kept w s)) ∧
  (∀ (w : Width) (s t n : Bytes), (∀ b ∈ n, inCod w b = false) → unpack w (s ++ n ++ t) = unpack w (s ++ t)) ∧
  (inCod .w1 0x1E#8 = false ∧ inCod .w1 0x1F#8 = false) ∧
  (∀ w : Width, ∃ (b : Byte) (x : Bytes), inCod w b = true ∧ unpack w (b :: pack w x) ≠ x)

/-- 42_framer_strip.md R160: stripping twice is stripping once exactly when the result does not end in a space, that
is when the bytes that are no alphabet bytes do not end in two; a clean carrier is unchanged; no alphabet byte is
left. -/
def Obligations.StripIdempotenceAsFarAsItHolds : Prop :=
  ∀ (w : Width) (c : Bytes),
    (strip w (strip w c) = strip w c ↔ (strip w c).getLast? ≠ some 0x20#8) ∧
    ((strip w c).getLast? ≠ some 0x20#8 ↔ ¬ ∃ r, residue w c = r ++ [0x20#8, 0x20#8]) ∧
    ((∀ b ∈ c, inCod w b = false) → c.getLast? ≠ some 0x20#8 → strip w c = c) ∧
    (∀ b ∈ strip w c, inCod w b = false)

/-- 42_framer_strip.md R161: the framing boundary, for a carrier without alphabet bytes, whatever it ends in. -/
def Obligations.FramingBoundary : Prop :=
  ∀ (w : Width) (c x : Bytes), (∀ b ∈ c, inCod w b = false) →
    unpack w (c ++ [0x20#8] ++ pack w x) = x ∧ strip w (c ++ [0x20#8] ++ pack w x) = c

/-- 70_reset_and_hazards.md R230: two hides on one file, compression off, in a carrier without alphabet bytes: the
secrets come out concatenated, and STRIP leaves the first marker. -/
def Obligations.TwoHidesOnOneFile : Prop :=
  ∀ (P : Params) (w : Width) (c x y : Bytes), (∀ b ∈ c, inCod w b = false) →
    extract P w false (c ++ hide P w false x ++ hide P w false y) = some (x ++ y) ∧
    strip w (c ++ hide P w false x ++ hide P w false y) = c ++ [0x20#8]

/-! ### The whole machine -/

/-- The invariant holds at reset (10_state.md R38). -/
def Obligations.InvariantHoldsAtReset : Prop := Inv Config.params State.reset

/-- The invariant is kept by every step, from every state that meets it (10_state.md R24, R25, R26, R28, R32, R33). -/
def Obligations.EveryStepKeepsTheInvariant : Prop :=
  ∀ s t : State, Inv Config.params s → step s = .next t → Inv Config.params t

/-- From every state that meets the invariant the step answers a next state: the block never stops (10_state.md R22,
43_composite_control.md R184). -/
def Obligations.TheBlockNeverStops : Prop :=
  ∀ s : State, Inv Config.params s → ∃ t, step s = .next t

/-- 10_state.md R32: the ten values STATUS can have. -/
def Obligations.StatusHasTenPossibleValues : Prop :=
  ∀ s : State, Inv Config.params s →
    (statusWord s).toNat ∈ [0x000, 0x001, 0x101, 0x002, 0x102, 0x013, 0x023, 0x033, 0x123, 0x133]

/-- 10_state.md R24: the transitions of STATE, and no others. -/
def Obligations.StateHasNoOtherTransitions : Prop :=
  ∀ (s t : State) (m : HostMove) (rest : List HostMove), s.script = m :: rest → step s = .next t →
    match m with
    | .reset => t.seq = .idle
    | .regRead _ => t.seq = s.seq
    | .offer _ => t.seq = s.seq
    | .discard => t.seq = s.seq
    | .regWrite i v =>
      if i ≠ 1#3 then t.seq = s.seq
      else if s.seq = .busy then t.seq = .busy ∧ t.busywr = true
      else if v = 0#32 then t.seq = .idle
      else if v ∈ legalWords then t.seq = .busy
      else t.seq = .fault ∧ t.err = .illegalCmd
    | .consume =>
      if s.seq ≠ .busy then t.seq = s.seq
      else match s.inq with
        | [] => t.seq = .busy
        | .byte _ :: _ => t.seq = .busy
        | .eos :: _ => t.seq = .done ∨ (t.seq = .fault ∧ (t.err = .malformed ∨ t.err = .overflow))

/-- 60_exceptions.md R196: a fault with code 2 or 3 is entered only by a Consume step that consumes END, and that step
does exactly what fault entry says, whatever the command: ZLEN_IN, ZLEN_OUT, CMD and BUSYWR are kept and nothing but
END(c) is appended; and both lengths are 0 in every BUSY state that meets the invariant. -/
def Obligations.FaultEntryIsPrecise : Prop :=
  (∀ (s t : State) (m : HostMove) (rest : List HostMove), s.script = m :: rest → step s = .next t →
    s.seq ≠ .fault → t.seq = .fault → t.err ≠ .illegalCmd →
    m = .consume ∧ s.seq = .busy ∧
    ∃ c q, (c = .malformed ∨ c = .overflow) ∧ s.inq = .eos :: q ∧ t = { faulted c q s with script := rest }) ∧
  (∀ s : State, Inv Config.params s → s.seq = .busy → s.zlenIn = 0#32 ∧ s.zlenOut = 0#32)

/-- 20_memory.md R53: a step appends to OUT only in Consume, an END(c) only in the step that consumes END, there
exactly one and last, with c = 0 exactly when the operation ends in DONE and otherwise ERR with no byte before it. -/
def Obligations.OutStreamsEndOnce : Prop :=
  ∀ (s t : State) (m : HostMove) (rest : List HostMove), s.script = m :: rest → step s = .next t →
    ∃ y : Bytes,
      (m = .consume ∧ s.seq = .busy ∧ (∃ q, s.inq = .eos :: q) →
        (t.seq = .done ∧ t.outH = s.outH ++ outputStream y .none) ∨
        (t.seq = .fault ∧ (t.err = .malformed ∨ t.err = .overflow) ∧ t.outH = s.outH ++ [.fin t.err])) ∧
      (¬ (m = .consume ∧ s.seq = .busy ∧ (∃ q, s.inq = .eos :: q)) →
        t.outH = s.outH ++ y.map .byte ∧ (m ≠ .consume ∨ s.seq ≠ .busy → y = []))

/-- 20_memory.md R55: the engine does not look ahead: a step's effect does not depend on the tokens behind the one it
consumes. -/
def Obligations.NoLookAhead : Prop :=
  ∀ (s t : State) (rest : List HostMove) (tok : Token) (q q' : List Token),
    s.script = .consume :: rest → s.seq = .busy → s.inq = tok :: q → step s = .next t →
    t.inq = q ∧ step { s with inq := tok :: q' } = .next { t with inq := q' }

/-- 10_state.md R27 and 20_memory.md R65 item 3: from the write of a command on, whatever moves follow, two blocks that
were in any two states outside BUSY behave alike: no operation observes anything of an earlier one. -/
def Obligations.NoTraceOfEarlierOperations : Prop :=
  ∀ (a b : State) (v : Word) (rest : List HostMove) (k : Nat), a.seq ≠ .busy → b.seq ≠ .busy →
    a.script = .regWrite 1#3 v :: rest → b.script = a.script → b.inq = a.inq →
    ∃ (t : State) (o : List OutTok) (r : List (BitVec 3 × Word)),
      Host.Core.run Sys2Proof.core (k + 1) a = .next { t with outH := a.outH ++ o, readH := a.readH ++ r } ∧
      Host.Core.run Sys2Proof.core (k + 1) b = .next { t with outH := b.outH ++ o, readH := b.readH ++ r }

/-- 20_memory.md R65 item 3, R68: however many register accesses the host makes before a token of a running operation
is handed over, the data path goes on as if there had been none, and the difference they leave (BUSYWR, the read
values) never reaches it. -/
def Obligations.ControlPortCannotTouchTheDataPath : Prop :=
  (∀ (s : State) (cs rest : List HostMove), s.seq = .busy → (latchedPipeline s).isSome = true →
    (∀ m ∈ cs, isAccess m = true) → s.script = cs ++ .consume :: rest →
    ∃ t u, Host.Core.run Sys2Proof.core (cs.length + 1) s = .next t ∧
      step { s with script := .consume :: rest } = .next u ∧ SameData t u) ∧
  (∀ (s t s' : State) (r r' : List HostMove), SameData s t → s.script = .consume :: r →
    t.script = .consume :: r' → step s = .next s' → ∃ t', step t = .next t' ∧ SameData s' t')
end

