-- ==== Sys2Proof/Laws/Alphabet.lean ====
section
/-! SUPPORT. The small laws of the alphabet and of the bit-level functions (30_encoding.md R80 to R83, R88): what a
later proof needs of one byte, so that no proof unfolds them again. -/

namespace Sys2Proof.Machine

theorem inCod_marker (w : Width) : inCod w markerByte = false := by
  cases w <;> decide

/-- Membership in COD(w) is a range of values (30_encoding.md R81). -/
theorem inCod_iff (w : Width) (b : Byte) :
    inCod w b = true ↔ 28 ≤ b.toNat ∧ b.toNat < 28 + 2 ^ widthBits w := by
  revert b
  cases w <;> decide

/-- GRP_w of an alphabet byte is a w-bit group (30_encoding.md R82). -/
theorem groupOf_lt (w : Width) (b : Byte) (h : inCod w b = true) : (groupOf b).toNat < 2 ^ widthBits w := by
  revert b
  cases w <;> decide

theorem groupAt_lt (w : Width) (b : Byte) (i : Nat) : (groupAt w b i).toNat < 2 ^ widthBits w := by
  cases w
  · show ((b.extractLsb' (7 - i) 1).setWidth 8).toNat < 2
    have := (b.extractLsb' (7 - i) 1).isLt
    rw [BitVec.toNat_setWidth]
    omega
  · show ((b.extractLsb' (6 - 2 * i) 2).setWidth 8).toNat < 4
    have := (b.extractLsb' (6 - 2 * i) 2).isLt
    rw [BitVec.toNat_setWidth]
    omega

@[simp] theorem kept_nil (w : Width) : kept w [] = [] := rfl

@[simp] theorem kept_append (w : Width) (s t : Bytes) : kept w (s ++ t) = kept w s ++ kept w t :=
  List.filter_append ..

@[simp] theorem residue_nil (w : Width) : residue w [] = [] := rfl

@[simp] theorem residue_append (w : Width) (s t : Bytes) : residue w (s ++ t) = residue w s ++ residue w t :=
  List.filter_append ..

@[simp] theorem payloadBits_nil (w : Width) : payloadBits w [] = [] := rfl

@[simp] theorem payloadBits_append (w : Width) (s t : Bytes) :
    payloadBits w (s ++ t) = payloadBits w s ++ payloadBits w t := by
  simp [payloadBits]

@[simp] theorem bitsOf_nil : bitsOf [] = [] := rfl

@[simp] theorem bitsOf_cons (b : Byte) (x : Bytes) : bitsOf (b :: x) = bits8 b ++ bitsOf x := List.flatMap_cons

@[simp] theorem bytesOf_nil : bytesOf [] = [] := rfl

end Sys2Proof.Machine
end

