-- ==== Sys2Proof/Laws/Decode.lean ====
section
/-! SUPPORT. The small laws of the encoding: a word and its fields are the same thing, each command's word decodes to
it, and each row of the alphabet is read at its own width. -/

namespace Sys2Proof

/-- No bit of a command word is outside its four fields (30_encoding.md R90). -/
theorem wordOf_fieldsOf (v : Word) : wordOf (fieldsOf v) = v := by
  apply BitVec.eq_of_toNat_eq
  simp only [wordOf, fieldsOf, BitVec.toNat_append, BitVec.extractLsb'_toNat]
  rw [← Nat.shiftLeft_add_eq_or_of_lt (by omega), ← Nat.shiftLeft_add_eq_or_of_lt (by omega),
    ← Nat.shiftLeft_add_eq_or_of_lt (by omega)]
  simp only [Nat.shiftRight_eq_div_pow, Nat.shiftLeft_eq]
  have := v.isLt
  omega

/-- The fields of the word built from them (30_encoding.md R90). -/
theorem fieldsOf_wordOf (f : CmdFields) : fieldsOf (wordOf f) = f := by
  obtain ⟨z, c, w, o⟩ := f
  have hz := z.isLt
  have hc := c.isLt
  have hw := w.isLt
  have ho := o.isLt
  have e : (wordOf ⟨z, c, w, o⟩).toNat = z.toNat * 64 + c.toNat * 32 + w.toNat * 16 + o.toNat := by
    simp only [wordOf, BitVec.toNat_append]
    rw [← Nat.shiftLeft_add_eq_or_of_lt (by omega), ← Nat.shiftLeft_add_eq_or_of_lt (by omega),
      ← Nat.shiftLeft_add_eq_or_of_lt (by omega)]
    simp only [Nat.shiftLeft_eq]
    omega
  simp only [fieldsOf, CmdFields.mk.injEq]
  refine ⟨?_, ?_, ?_, ?_⟩ <;> apply BitVec.eq_of_toNat_eq <;>
    simp only [BitVec.extractLsb'_toNat, e, Nat.shiftRight_eq_div_pow] <;> omega

@[simp] theorem fieldsOf_cmdWord (op : BitVec 4) (w ce : BitVec 1) :
    fieldsOf (cmdWord op w ce) = { zero := 0#26, ce := ce, w := w, op := op } := fieldsOf_wordOf _

@[simp] theorem widthOfBit_bitOfWidth (w : Width) : widthOfBit (bitOfWidth w) = w := by
  cases w <;> rfl

@[simp] theorem bitOfWidth_widthOfBit (b : BitVec 1) : bitOfWidth (widthOfBit b) = b := by
  revert b
  decide

@[simp] theorem bitOfCe_decide (b : BitVec 1) : bitOfCe (decide (b = 1#1)) = b := by
  revert b
  decide

@[simp] theorem decide_bitOfCe (ce : Bool) : decide (bitOfCe ce = 1#1) = ce := by
  cases ce <;> rfl

theorem decodeCmd_clr : decodeCmd (cmdWord 0#4 0#1 0#1) = .ok .clr := by decide

theorem decodeCmd_pack (w : Width) : decodeCmd (cmdWord 1#4 (bitOfWidth w) 0#1) = .ok (.pack w) := by
  cases w <;> decide

theorem decodeCmd_unpack (w : Width) : decodeCmd (cmdWord 2#4 (bitOfWidth w) 0#1) = .ok (.unpack w) := by
  cases w <;> decide

theorem decodeCmd_frame : decodeCmd (cmdWord 3#4 0#1 0#1) = .ok .frame := by decide

theorem decodeCmd_strip (w : Width) : decodeCmd (cmdWord 4#4 (bitOfWidth w) 0#1) = .ok (.strip w) := by
  cases w <;> decide

theorem decodeCmd_compress : decodeCmd (cmdWord 5#4 0#1 0#1) = .ok .compress := by decide

theorem decodeCmd_decompress : decodeCmd (cmdWord 6#4 0#1 0#1) = .ok .decompress := by decide

theorem decodeCmd_hide (w : Width) (ce : Bool) :
    decodeCmd (cmdWord 7#4 (bitOfWidth w) (bitOfCe ce)) = .ok (.hide w ce) := by
  cases w <;> cases ce <;> decide

theorem decodeCmd_extract (w : Width) (ce : Bool) :
    decodeCmd (cmdWord 8#4 (bitOfWidth w) (bitOfCe ce)) = .ok (.extract w ce) := by
  cases w <;> cases ce <;> decide

end Sys2Proof
end

