-- ==== Sys2Proof/Laws/State.lean ====
section
/-! SUPPORT. For each named update of the state, what each field is afterwards. -/

namespace Sys2Proof.Machine

variable (s : State)

/-! OutPut(t) (20_memory.md R54) -/

@[simp] theorem outPut_seq (t : OutTok) : (outPut t s).seq = s.seq := rfl
@[simp] theorem outPut_err (t : OutTok) : (outPut t s).err = s.err := rfl
@[simp] theorem outPut_busywr (t : OutTok) : (outPut t s).busywr = s.busywr := rfl
@[simp] theorem outPut_cmd (t : OutTok) : (outPut t s).cmd = s.cmd := rfl
@[simp] theorem outPut_zlenIn (t : OutTok) : (outPut t s).zlenIn = s.zlenIn := rfl
@[simp] theorem outPut_zlenOut (t : OutTok) : (outPut t s).zlenOut = s.zlenOut := rfl
@[simp] theorem outPut_acc (t : OutTok) : (outPut t s).acc = s.acc := rfl
@[simp] theorem outPut_nb (t : OutTok) : (outPut t s).nb = s.nb := rfl
@[simp] theorem outPut_sp (t : OutTok) : (outPut t s).sp = s.sp := rfl
@[simp] theorem outPut_mkf (t : OutTok) : (outPut t s).mkf = s.mkf := rfl
@[simp] theorem outPut_ovf (t : OutTok) : (outPut t s).ovf = s.ovf := rfl
@[simp] theorem outPut_zbuf (t : OutTok) : (outPut t s).zbuf = s.zbuf := rfl
@[simp] theorem outPut_outH (t : OutTok) : (outPut t s).outH = s.outH ++ [t] := rfl
@[simp] theorem outPut_inq (t : OutTok) : (outPut t s).inq = s.inq := rfl
@[simp] theorem outPut_script (t : OutTok) : (outPut t s).script = s.script := rfl
@[simp] theorem outPut_readH (t : OutTok) : (outPut t s).readH = s.readH := rfl

/-! the working registers cleared (10_state.md R27) -/

@[simp] theorem clearWorking_seq : (clearWorking s).seq = s.seq := rfl
@[simp] theorem clearWorking_err : (clearWorking s).err = s.err := rfl
@[simp] theorem clearWorking_busywr : (clearWorking s).busywr = s.busywr := rfl
@[simp] theorem clearWorking_cmd : (clearWorking s).cmd = s.cmd := rfl
@[simp] theorem clearWorking_zlenIn : (clearWorking s).zlenIn = s.zlenIn := rfl
@[simp] theorem clearWorking_zlenOut : (clearWorking s).zlenOut = s.zlenOut := rfl
@[simp] theorem clearWorking_acc : (clearWorking s).acc = 0#8 := rfl
@[simp] theorem clearWorking_nb : (clearWorking s).nb = 0#3 := rfl
@[simp] theorem clearWorking_sp : (clearWorking s).sp = false := rfl
@[simp] theorem clearWorking_mkf : (clearWorking s).mkf = false := rfl
@[simp] theorem clearWorking_ovf : (clearWorking s).ovf = false := rfl
@[simp] theorem clearWorking_zbuf : (clearWorking s).zbuf = [] := rfl
@[simp] theorem clearWorking_outH : (clearWorking s).outH = s.outH := rfl
@[simp] theorem clearWorking_inq : (clearWorking s).inq = s.inq := rfl
@[simp] theorem clearWorking_script : (clearWorking s).script = s.script := rfl
@[simp] theorem clearWorking_readH : (clearWorking s).readH = s.readH := rfl

/-! the start of an operation (10_state.md R27) -/

@[simp] theorem initOperation_seq (v : Word) : (initOperation v s).seq = s.seq := rfl
@[simp] theorem initOperation_err (v : Word) : (initOperation v s).err = .none := rfl
@[simp] theorem initOperation_busywr (v : Word) : (initOperation v s).busywr = false := rfl
@[simp] theorem initOperation_cmd (v : Word) : (initOperation v s).cmd = v := rfl
@[simp] theorem initOperation_zlenIn (v : Word) : (initOperation v s).zlenIn = 0#32 := rfl
@[simp] theorem initOperation_zlenOut (v : Word) : (initOperation v s).zlenOut = 0#32 := rfl
@[simp] theorem initOperation_acc (v : Word) : (initOperation v s).acc = 0#8 := rfl
@[simp] theorem initOperation_nb (v : Word) : (initOperation v s).nb = 0#3 := rfl
@[simp] theorem initOperation_sp (v : Word) : (initOperation v s).sp = false := rfl
@[simp] theorem initOperation_mkf (v : Word) : (initOperation v s).mkf = false := rfl
@[simp] theorem initOperation_ovf (v : Word) : (initOperation v s).ovf = false := rfl
@[simp] theorem initOperation_zbuf (v : Word) : (initOperation v s).zbuf = [] := rfl
@[simp] theorem initOperation_outH (v : Word) : (initOperation v s).outH = s.outH := rfl
@[simp] theorem initOperation_inq (v : Word) : (initOperation v s).inq = s.inq := rfl
@[simp] theorem initOperation_script (v : Word) : (initOperation v s).script = s.script := rfl
@[simp] theorem initOperation_readH (v : Word) : (initOperation v s).readH = s.readH := rfl

/-! acceptance (10_state.md R24) -/

@[simp] theorem acceptCommand_seq (v : Word) : (acceptCommand v s).seq = .busy := rfl
@[simp] theorem acceptCommand_err (v : Word) : (acceptCommand v s).err = .none := rfl
@[simp] theorem acceptCommand_busywr (v : Word) : (acceptCommand v s).busywr = false := rfl
@[simp] theorem acceptCommand_cmd (v : Word) : (acceptCommand v s).cmd = v := rfl
@[simp] theorem acceptCommand_zlenIn (v : Word) : (acceptCommand v s).zlenIn = 0#32 := rfl
@[simp] theorem acceptCommand_zlenOut (v : Word) : (acceptCommand v s).zlenOut = 0#32 := rfl
@[simp] theorem acceptCommand_acc (v : Word) : (acceptCommand v s).acc = 0#8 := rfl
@[simp] theorem acceptCommand_nb (v : Word) : (acceptCommand v s).nb = 0#3 := rfl
@[simp] theorem acceptCommand_sp (v : Word) : (acceptCommand v s).sp = false := rfl
@[simp] theorem acceptCommand_mkf (v : Word) : (acceptCommand v s).mkf = false := rfl
@[simp] theorem acceptCommand_ovf (v : Word) : (acceptCommand v s).ovf = false := rfl
@[simp] theorem acceptCommand_zbuf (v : Word) : (acceptCommand v s).zbuf = [] := rfl
@[simp] theorem acceptCommand_outH (v : Word) : (acceptCommand v s).outH = s.outH := rfl
@[simp] theorem acceptCommand_inq (v : Word) : (acceptCommand v s).inq = s.inq := rfl
@[simp] theorem acceptCommand_script (v : Word) : (acceptCommand v s).script = s.script := rfl
@[simp] theorem acceptCommand_readH (v : Word) : (acceptCommand v s).readH = s.readH := rfl

/-! CLR (43_composite_control.md R176) -/

@[simp] theorem returnToIdle_seq (v : Word) : (returnToIdle v s).seq = .idle := rfl
@[simp] theorem returnToIdle_err (v : Word) : (returnToIdle v s).err = .none := rfl
@[simp] theorem returnToIdle_busywr (v : Word) : (returnToIdle v s).busywr = false := rfl
@[simp] theorem returnToIdle_cmd (v : Word) : (returnToIdle v s).cmd = v := rfl
@[simp] theorem returnToIdle_zlenIn (v : Word) : (returnToIdle v s).zlenIn = 0#32 := rfl
@[simp] theorem returnToIdle_zlenOut (v : Word) : (returnToIdle v s).zlenOut = 0#32 := rfl
@[simp] theorem returnToIdle_acc (v : Word) : (returnToIdle v s).acc = 0#8 := rfl
@[simp] theorem returnToIdle_nb (v : Word) : (returnToIdle v s).nb = 0#3 := rfl
@[simp] theorem returnToIdle_sp (v : Word) : (returnToIdle v s).sp = false := rfl
@[simp] theorem returnToIdle_mkf (v : Word) : (returnToIdle v s).mkf = false := rfl
@[simp] theorem returnToIdle_ovf (v : Word) : (returnToIdle v s).ovf = false := rfl
@[simp] theorem returnToIdle_zbuf (v : Word) : (returnToIdle v s).zbuf = [] := rfl
@[simp] theorem returnToIdle_outH (v : Word) : (returnToIdle v s).outH = s.outH := rfl
@[simp] theorem returnToIdle_inq (v : Word) : (returnToIdle v s).inq = s.inq := rfl
@[simp] theorem returnToIdle_script (v : Word) : (returnToIdle v s).script = s.script := rfl
@[simp] theorem returnToIdle_readH (v : Word) : (returnToIdle v s).readH = s.readH := rfl

/-! ILLEGAL_CMD (60_exceptions.md R191) -/

@[simp] theorem illegalCommand_seq (v : Word) : (illegalCommand v s).seq = .fault := rfl
@[simp] theorem illegalCommand_err (v : Word) : (illegalCommand v s).err = .illegalCmd := rfl
@[simp] theorem illegalCommand_busywr (v : Word) : (illegalCommand v s).busywr = false := rfl
@[simp] theorem illegalCommand_cmd (v : Word) : (illegalCommand v s).cmd = v := rfl
@[simp] theorem illegalCommand_zlenIn (v : Word) : (illegalCommand v s).zlenIn = 0#32 := rfl
@[simp] theorem illegalCommand_zlenOut (v : Word) : (illegalCommand v s).zlenOut = 0#32 := rfl
@[simp] theorem illegalCommand_acc (v : Word) : (illegalCommand v s).acc = 0#8 := rfl
@[simp] theorem illegalCommand_nb (v : Word) : (illegalCommand v s).nb = 0#3 := rfl
@[simp] theorem illegalCommand_sp (v : Word) : (illegalCommand v s).sp = false := rfl
@[simp] theorem illegalCommand_mkf (v : Word) : (illegalCommand v s).mkf = false := rfl
@[simp] theorem illegalCommand_ovf (v : Word) : (illegalCommand v s).ovf = false := rfl
@[simp] theorem illegalCommand_zbuf (v : Word) : (illegalCommand v s).zbuf = [] := rfl
@[simp] theorem illegalCommand_outH (v : Word) : (illegalCommand v s).outH = s.outH := rfl
@[simp] theorem illegalCommand_inq (v : Word) : (illegalCommand v s).inq = s.inq := rfl
@[simp] theorem illegalCommand_script (v : Word) : (illegalCommand v s).script = s.script := rfl
@[simp] theorem illegalCommand_readH (v : Word) : (illegalCommand v s).readH = s.readH := rfl

/-! fault entry (60_exceptions.md R196) -/

@[simp] theorem enterFault_seq (c : ErrCode) : (enterFault c s).seq = .fault := rfl
@[simp] theorem enterFault_err (c : ErrCode) : (enterFault c s).err = c := rfl
@[simp] theorem enterFault_busywr (c : ErrCode) : (enterFault c s).busywr = s.busywr := rfl
@[simp] theorem enterFault_cmd (c : ErrCode) : (enterFault c s).cmd = s.cmd := rfl
@[simp] theorem enterFault_zlenIn (c : ErrCode) : (enterFault c s).zlenIn = s.zlenIn := rfl
@[simp] theorem enterFault_zlenOut (c : ErrCode) : (enterFault c s).zlenOut = s.zlenOut := rfl
@[simp] theorem enterFault_acc (c : ErrCode) : (enterFault c s).acc = 0#8 := rfl
@[simp] theorem enterFault_nb (c : ErrCode) : (enterFault c s).nb = 0#3 := rfl
@[simp] theorem enterFault_sp (c : ErrCode) : (enterFault c s).sp = false := rfl
@[simp] theorem enterFault_mkf (c : ErrCode) : (enterFault c s).mkf = false := rfl
@[simp] theorem enterFault_ovf (c : ErrCode) : (enterFault c s).ovf = false := rfl
@[simp] theorem enterFault_zbuf (c : ErrCode) : (enterFault c s).zbuf = [] := rfl
@[simp] theorem enterFault_outH (c : ErrCode) : (enterFault c s).outH = s.outH ++ [.fin c] := rfl
@[simp] theorem enterFault_inq (c : ErrCode) : (enterFault c s).inq = s.inq := rfl
@[simp] theorem enterFault_script (c : ErrCode) : (enterFault c s).script = s.script := rfl
@[simp] theorem enterFault_readH (c : ErrCode) : (enterFault c s).readH = s.readH := rfl

/-! the successful end (43_composite_control.md R175) -/

@[simp] theorem finish_seq : (finish s).seq = .done := rfl
@[simp] theorem finish_err : (finish s).err = s.err := rfl
@[simp] theorem finish_busywr : (finish s).busywr = s.busywr := rfl
@[simp] theorem finish_cmd : (finish s).cmd = s.cmd := rfl
@[simp] theorem finish_zlenIn : (finish s).zlenIn = s.zlenIn := rfl
@[simp] theorem finish_zlenOut : (finish s).zlenOut = s.zlenOut := rfl
@[simp] theorem finish_acc : (finish s).acc = s.acc := rfl
@[simp] theorem finish_nb : (finish s).nb = s.nb := rfl
@[simp] theorem finish_sp : (finish s).sp = s.sp := rfl
@[simp] theorem finish_mkf : (finish s).mkf = s.mkf := rfl
@[simp] theorem finish_ovf : (finish s).ovf = s.ovf := rfl
@[simp] theorem finish_zbuf : (finish s).zbuf = s.zbuf := rfl
@[simp] theorem finish_outH : (finish s).outH = s.outH ++ [.fin .none] := rfl
@[simp] theorem finish_inq : (finish s).inq = s.inq := rfl
@[simp] theorem finish_script : (finish s).script = s.script := rfl
@[simp] theorem finish_readH : (finish s).readH = s.readH := rfl

/-! a CMD write while BUSY (10_state.md R31) -/

@[simp] theorem writeWhileBusy_seq : (writeWhileBusy s).seq = s.seq := rfl
@[simp] theorem writeWhileBusy_err : (writeWhileBusy s).err = s.err := rfl
@[simp] theorem writeWhileBusy_busywr : (writeWhileBusy s).busywr = true := rfl
@[simp] theorem writeWhileBusy_cmd : (writeWhileBusy s).cmd = s.cmd := rfl
@[simp] theorem writeWhileBusy_zlenIn : (writeWhileBusy s).zlenIn = s.zlenIn := rfl
@[simp] theorem writeWhileBusy_zlenOut : (writeWhileBusy s).zlenOut = s.zlenOut := rfl
@[simp] theorem writeWhileBusy_acc : (writeWhileBusy s).acc = s.acc := rfl
@[simp] theorem writeWhileBusy_nb : (writeWhileBusy s).nb = s.nb := rfl
@[simp] theorem writeWhileBusy_sp : (writeWhileBusy s).sp = s.sp := rfl
@[simp] theorem writeWhileBusy_mkf : (writeWhileBusy s).mkf = s.mkf := rfl
@[simp] theorem writeWhileBusy_ovf : (writeWhileBusy s).ovf = s.ovf := rfl
@[simp] theorem writeWhileBusy_zbuf : (writeWhileBusy s).zbuf = s.zbuf := rfl
@[simp] theorem writeWhileBusy_outH : (writeWhileBusy s).outH = s.outH := rfl
@[simp] theorem writeWhileBusy_inq : (writeWhileBusy s).inq = s.inq := rfl
@[simp] theorem writeWhileBusy_script : (writeWhileBusy s).script = s.script := rfl
@[simp] theorem writeWhileBusy_readH : (writeWhileBusy s).readH = s.readH := rfl

/-! the Reset step (10_state.md R38) -/

@[simp] theorem resetBlock_seq : (resetBlock s).seq = .idle := rfl
@[simp] theorem resetBlock_err : (resetBlock s).err = .none := rfl
@[simp] theorem resetBlock_busywr : (resetBlock s).busywr = false := rfl
@[simp] theorem resetBlock_cmd : (resetBlock s).cmd = 0#32 := rfl
@[simp] theorem resetBlock_zlenIn : (resetBlock s).zlenIn = 0#32 := rfl
@[simp] theorem resetBlock_zlenOut : (resetBlock s).zlenOut = 0#32 := rfl
@[simp] theorem resetBlock_acc : (resetBlock s).acc = 0#8 := rfl
@[simp] theorem resetBlock_nb : (resetBlock s).nb = 0#3 := rfl
@[simp] theorem resetBlock_sp : (resetBlock s).sp = false := rfl
@[simp] theorem resetBlock_mkf : (resetBlock s).mkf = false := rfl
@[simp] theorem resetBlock_ovf : (resetBlock s).ovf = false := rfl
@[simp] theorem resetBlock_zbuf : (resetBlock s).zbuf = [] := rfl
@[simp] theorem resetBlock_outH : (resetBlock s).outH = s.outH := rfl
@[simp] theorem resetBlock_inq : (resetBlock s).inq = s.inq := rfl
@[simp] theorem resetBlock_script : (resetBlock s).script = s.script := rfl
@[simp] theorem resetBlock_readH : (resetBlock s).readH = s.readH := rfl

/-! RegRead (20_memory.md R59) -/

@[simp] theorem regRead_seq (i : BitVec 3) : (regRead i s).seq = s.seq := rfl
@[simp] theorem regRead_err (i : BitVec 3) : (regRead i s).err = s.err := rfl
@[simp] theorem regRead_busywr (i : BitVec 3) : (regRead i s).busywr = s.busywr := rfl
@[simp] theorem regRead_cmd (i : BitVec 3) : (regRead i s).cmd = s.cmd := rfl
@[simp] theorem regRead_zlenIn (i : BitVec 3) : (regRead i s).zlenIn = s.zlenIn := rfl
@[simp] theorem regRead_zlenOut (i : BitVec 3) : (regRead i s).zlenOut = s.zlenOut := rfl
@[simp] theorem regRead_acc (i : BitVec 3) : (regRead i s).acc = s.acc := rfl
@[simp] theorem regRead_nb (i : BitVec 3) : (regRead i s).nb = s.nb := rfl
@[simp] theorem regRead_sp (i : BitVec 3) : (regRead i s).sp = s.sp := rfl
@[simp] theorem regRead_mkf (i : BitVec 3) : (regRead i s).mkf = s.mkf := rfl
@[simp] theorem regRead_ovf (i : BitVec 3) : (regRead i s).ovf = s.ovf := rfl
@[simp] theorem regRead_zbuf (i : BitVec 3) : (regRead i s).zbuf = s.zbuf := rfl
@[simp] theorem regRead_outH (i : BitVec 3) : (regRead i s).outH = s.outH := rfl
@[simp] theorem regRead_inq (i : BitVec 3) : (regRead i s).inq = s.inq := rfl
@[simp] theorem regRead_script (i : BitVec 3) : (regRead i s).script = s.script := rfl
@[simp] theorem regRead_readH (i : BitVec 3) : (regRead i s).readH = s.readH ++ [(i, regValue i s)] := rfl

/-! a beat put on IN (20_memory.md R51) -/

@[simp] theorem offerBeat_seq (beat : BitVec 9) : (offerBeat beat s).seq = s.seq := rfl
@[simp] theorem offerBeat_err (beat : BitVec 9) : (offerBeat beat s).err = s.err := rfl
@[simp] theorem offerBeat_busywr (beat : BitVec 9) : (offerBeat beat s).busywr = s.busywr := rfl
@[simp] theorem offerBeat_cmd (beat : BitVec 9) : (offerBeat beat s).cmd = s.cmd := rfl
@[simp] theorem offerBeat_zlenIn (beat : BitVec 9) : (offerBeat beat s).zlenIn = s.zlenIn := rfl
@[simp] theorem offerBeat_zlenOut (beat : BitVec 9) : (offerBeat beat s).zlenOut = s.zlenOut := rfl
@[simp] theorem offerBeat_acc (beat : BitVec 9) : (offerBeat beat s).acc = s.acc := rfl
@[simp] theorem offerBeat_nb (beat : BitVec 9) : (offerBeat beat s).nb = s.nb := rfl
@[simp] theorem offerBeat_sp (beat : BitVec 9) : (offerBeat beat s).sp = s.sp := rfl
@[simp] theorem offerBeat_mkf (beat : BitVec 9) : (offerBeat beat s).mkf = s.mkf := rfl
@[simp] theorem offerBeat_ovf (beat : BitVec 9) : (offerBeat beat s).ovf = s.ovf := rfl
@[simp] theorem offerBeat_zbuf (beat : BitVec 9) : (offerBeat beat s).zbuf = s.zbuf := rfl
@[simp] theorem offerBeat_outH (beat : BitVec 9) : (offerBeat beat s).outH = s.outH := rfl
@[simp] theorem offerBeat_inq (beat : BitVec 9) : (offerBeat beat s).inq = s.inq ++ [tokenOfBeat beat] := rfl
@[simp] theorem offerBeat_script (beat : BitVec 9) : (offerBeat beat s).script = s.script := rfl
@[simp] theorem offerBeat_readH (beat : BitVec 9) : (offerBeat beat s).readH = s.readH := rfl

/-! a token withdrawn (70_reset_and_hazards.md R235) -/

@[simp] theorem withdraw_seq : (withdraw s).seq = s.seq := rfl
@[simp] theorem withdraw_err : (withdraw s).err = s.err := rfl
@[simp] theorem withdraw_busywr : (withdraw s).busywr = s.busywr := rfl
@[simp] theorem withdraw_cmd : (withdraw s).cmd = s.cmd := rfl
@[simp] theorem withdraw_zlenIn : (withdraw s).zlenIn = s.zlenIn := rfl
@[simp] theorem withdraw_zlenOut : (withdraw s).zlenOut = s.zlenOut := rfl
@[simp] theorem withdraw_acc : (withdraw s).acc = s.acc := rfl
@[simp] theorem withdraw_nb : (withdraw s).nb = s.nb := rfl
@[simp] theorem withdraw_sp : (withdraw s).sp = s.sp := rfl
@[simp] theorem withdraw_mkf : (withdraw s).mkf = s.mkf := rfl
@[simp] theorem withdraw_ovf : (withdraw s).ovf = s.ovf := rfl
@[simp] theorem withdraw_zbuf : (withdraw s).zbuf = s.zbuf := rfl
@[simp] theorem withdraw_outH : (withdraw s).outH = s.outH := rfl
@[simp] theorem withdraw_inq : (withdraw s).inq = s.inq.tail := rfl
@[simp] theorem withdraw_script : (withdraw s).script = s.script := rfl
@[simp] theorem withdraw_readH : (withdraw s).readH = s.readH := rfl

/-! the size report (41_compressor.md R137) -/

@[simp] theorem reportSizes_seq (y : Bytes) : (reportSizes y s).seq = s.seq := rfl
@[simp] theorem reportSizes_err (y : Bytes) : (reportSizes y s).err = s.err := rfl
@[simp] theorem reportSizes_busywr (y : Bytes) : (reportSizes y s).busywr = s.busywr := rfl
@[simp] theorem reportSizes_cmd (y : Bytes) : (reportSizes y s).cmd = s.cmd := rfl
@[simp] theorem reportSizes_zlenIn (y : Bytes) : (reportSizes y s).zlenIn = sat32 s.zbuf.length := rfl
@[simp] theorem reportSizes_zlenOut (y : Bytes) : (reportSizes y s).zlenOut = sat32 y.length := rfl
@[simp] theorem reportSizes_acc (y : Bytes) : (reportSizes y s).acc = s.acc := rfl
@[simp] theorem reportSizes_nb (y : Bytes) : (reportSizes y s).nb = s.nb := rfl
@[simp] theorem reportSizes_sp (y : Bytes) : (reportSizes y s).sp = s.sp := rfl
@[simp] theorem reportSizes_mkf (y : Bytes) : (reportSizes y s).mkf = s.mkf := rfl
@[simp] theorem reportSizes_ovf (y : Bytes) : (reportSizes y s).ovf = s.ovf := rfl
@[simp] theorem reportSizes_zbuf (y : Bytes) : (reportSizes y s).zbuf = [] := rfl
@[simp] theorem reportSizes_outH (y : Bytes) : (reportSizes y s).outH = s.outH := rfl
@[simp] theorem reportSizes_inq (y : Bytes) : (reportSizes y s).inq = s.inq := rfl
@[simp] theorem reportSizes_script (y : Bytes) : (reportSizes y s).script = s.script := rfl
@[simp] theorem reportSizes_readH (y : Bytes) : (reportSizes y s).readH = s.readH := rfl

end Sys2Proof.Machine
end

