-- ==== Sys2Proof/Laws/Ops.lean ====
section
/-! SUPPORT. What the shared operations do, said once: flows, the OUT port as a sink, emitting a byte sequence, the
buffer's store. Later proofs cite these and do not unfold the operations. -/

namespace Sys2Proof.Machine

/-! Flows (43_composite_control.md R170) -/

@[simp] theorem flow_next_go (s : State) (f : State → Flow) : (Flow.go s).next f = f s := rfl

@[simp] theorem flow_next_ended (s : State) (f : State → Flow) : (Flow.ended s).next f = .ended s := rfl

@[simp] theorem flow_state_go (s : State) : (Flow.go s).state = s := rfl

@[simp] theorem flow_state_ended (s : State) : (Flow.ended s).state = s := rfl

theorem flow_next_assoc (r : Flow) (f g : State → Flow) :
    (r.next f).next g = r.next fun s => (f s).next g := by
  cases r <;> rfl

/-! The OUT port (43_composite_control.md R170, R175) -/

@[simp] theorem outPort_byte (b : Byte) (s : State) : outPort (.byte b) s = .go (outPut (.byte b) s) := rfl

@[simp] theorem outPort_eos (s : State) : outPort .eos s = .go (finish s) := rfl

/-! Emitting bytes in order -/

@[simp] theorem emitBytes_nil (emit : Sink) (s : State) : emitBytes emit [] s = .go s := rfl

@[simp] theorem emitBytes_cons (emit : Sink) (b : Byte) (x : Bytes) (s : State) :
    emitBytes emit (b :: x) s = (emit (.byte b) s).next (emitBytes emit x) := rfl

theorem emitBytes_append (emit : Sink) (x y : Bytes) (s : State) :
    emitBytes emit (x ++ y) s = (emitBytes emit x s).next (emitBytes emit y) := by
  induction x generalizing s with
  | nil => rfl
  | cons b x ih =>
    rw [List.cons_append, emitBytes_cons, emitBytes_cons]
    cases emit (.byte b) s with
    | go r => exact ih r
    | ended r => rfl

/-- Bytes emitted to the OUT port are appended to the OUT history in order, and nothing else changes. -/
theorem emitBytes_outPort (x : Bytes) (s : State) :
    emitBytes outPort x s = .go { s with outH := s.outH ++ x.map .byte } := by
  induction x generalizing s with
  | nil => simp
  | cons b x ih => simp [ih, outPut]

/-! The buffer's store (41_compressor.md R132) -/

theorem zStore_room (P : Params) (b : Byte) (s : State) (h : P.room s.zbuf.length = true) :
    zStore P b s = { s with zbuf := s.zbuf ++ [b] } := if_pos h

theorem zStore_full (P : Params) (b : Byte) (s : State) (h : P.room s.zbuf.length = false) :
    zStore P b s = { s with ovf := true } := if_neg (by simp [h])

/-- A buffer with room for one more byte still fits with it. -/
theorem fits_of_room (P : Params) (n : Nat) (h : P.room n = true) : P.fits (n + 1) = true := by
  unfold Params.room at h
  unfold Params.fits
  cases hc : P.cap with
  | none => rfl
  | some c =>
    rw [hc] at h
    exact decide_eq_true (Nat.succ_le_of_lt (of_decide_eq_true h))

/-- A buffer that fits and has no room is full. -/
theorem full_of_no_room (P : Params) (n : Nat) (hf : P.fits n = true) (h : P.room n = false) : P.cap = some n := by
  unfold Params.room at h
  unfold Params.fits at hf
  cases hc : P.cap with
  | none => rw [hc] at h; cases h
  | some c =>
    rw [hc] at h hf
    have h1 : ¬ n < c := of_decide_eq_false h
    have h2 : n ≤ c := of_decide_eq_true hf
    rw [Nat.le_antisymm h2 (Nat.le_of_not_lt h1)]

@[simp] theorem fits_zero (P : Params) : P.fits 0 = true := by
  unfold Params.fits
  cases P.cap <;> simp

/-- The codec's law in the parameters' terms (41_compressor.md R130). -/
theorem zd_zc (P : Params) (x : Bytes) : P.zd (P.zc x) = some x := P.codec.law x

end Sys2Proof.Machine
end

