-- ==== Sys2Proof/Laws/PerInstr.lean ====
section
/-! SUPPORT. The family LegalCode, one lemma for each constructor of Instr: the code of an instruction is a legal
command word (30_encoding.md R93) or one of the five bytes 0x1C to 0x20 (R80, R84). -/

namespace Sys2Proof.Laws

/-- A code that the spec lists: a legal command word, or an alphabet or marker byte. -/
def legalCode (c : Code) : Bool :=
  match c with
  | .cmd v => (fieldsOf v).wellFormed
  | .byte b => decide (0x1C ≤ b.toNat ∧ b.toNat ≤ 0x20)

end Sys2Proof.Laws

namespace Sys2Proof.Laws.LegalCode

/-- The instruction's code is one the spec lists. -/
def Statement (i : Instr) : Prop := legalCode (encode i) = true

theorem clr : Statement .clr := by unfold Statement; decide

theorem pack (w : Width) : Statement (.pack w) := by cases w <;> (unfold Statement; decide)

theorem unpack (w : Width) : Statement (.unpack w) := by cases w <;> (unfold Statement; decide)

theorem frame : Statement .frame := by unfold Statement; decide

theorem strip (w : Width) : Statement (.strip w) := by cases w <;> (unfold Statement; decide)

theorem compress : Statement .compress := by unfold Statement; decide

theorem decompress : Statement .decompress := by unfold Statement; decide

theorem hide (w : Width) (ce : Bool) : Statement (.hide w ce) := by
  cases w <;> cases ce <;> (unfold Statement; decide)

theorem extract (w : Width) (ce : Bool) : Statement (.extract w ce) := by
  cases w <;> cases ce <;> (unfold Statement; decide)

theorem sym1_0 : Statement .sym1_0 := by unfold Statement; decide

theorem sym1_1 : Statement .sym1_1 := by unfold Statement; decide

theorem sym2_00 : Statement .sym2_00 := by unfold Statement; decide

theorem sym2_01 : Statement .sym2_01 := by unfold Statement; decide

theorem sym2_10 : Statement .sym2_10 := by unfold Statement; decide

theorem sym2_11 : Statement .sym2_11 := by unfold Statement; decide

theorem marker : Statement .marker := by unfold Statement; decide

end Sys2Proof.Laws.LegalCode
end

