-- ==== Sys2Proof/Laws/Stages.lean ====
section
/-! SUPPORT. What a stage does in front of the OUT port, and what the streaming command does, said once. -/

namespace Sys2Proof.Machine

@[simp] theorem pipeline_nil (P : Params) : pipeline P [] = outPort := rfl

@[simp] theorem pipeline_cons (P : Params) (g : Stage) (r : List Stage) :
    pipeline P (g :: r) = stageSink P g (pipeline P r) := rfl

/-! The streaming command (10_state.md R22, R27) -/

/-- A stream command that is not BUSY is started. -/
theorem streamCommand_start (v : Word) (stages : List Stage) (s : State) (h : s.seq ≠ .busy) :
    streamCommand v stages s = .next (acceptCommand v s) := by
  unfold streamCommand
  cases hs : s.seq <;> first | rfl | exact absurd hs h

/-- A stream command that is BUSY takes the next token of IN. -/
theorem streamCommand_token (v : Word) (stages : List Stage) (s : State) (t : Token) (r : List Token)
    (h : s.seq = .busy) (hq : s.inq = t :: r) :
    streamCommand v stages s = .next (consumeThrough Config.params stages t { s with inq := r }) := by
  unfold streamCommand
  rw [h, hq]

/-- A stream command that is BUSY with no token on offer waits. -/
theorem streamCommand_wait (v : Word) (stages : List Stage) (s : State) (h : s.seq = .busy) (hq : s.inq = []) :
    streamCommand v stages s = .next s := by
  unfold streamCommand
  rw [h, hq]

/-- All a streaming step can do: it starts, takes a token or waits. -/
theorem streamCommand_cases (v : Word) (stages : List Stage) (s s' : State)
    (h : streamCommand v stages s = .next s') :
    (s.seq ≠ .busy ∧ s' = acceptCommand v s) ∨
    (s.seq = .busy ∧ ∃ t r, s.inq = t :: r ∧
      s' = consumeThrough Config.params stages t { s with inq := r }) ∨
    (s.seq = .busy ∧ s.inq = [] ∧ s' = s) := by
  by_cases hb : s.seq = .busy
  · cases hq : s.inq with
    | nil =>
      rw [streamCommand_wait v stages s hb hq] at h
      cases h
      exact .inr (.inr ⟨hb, rfl, rfl⟩)
    | cons t r =>
      rw [streamCommand_token v stages s t r hb hq] at h
      cases h
      exact .inr (.inl ⟨hb, t, r, rfl, rfl⟩)
  · rw [streamCommand_start v stages s hb] at h
    cases h
    exact .inl ⟨hb, rfl⟩

/-! The framer in front of the OUT port (42_framer_strip.md R151) -/

/-- Once the marker is sent the framer passes bytes through. -/
theorem emitBytes_framer_sent (x : Bytes) (s : State) (h : s.mkf = true) :
    emitBytes (framerStage outPort) x s = .go { s with outH := s.outH ++ x.map .byte } := by
  induction x generalizing s with
  | nil => simp
  | cons b x ih => simp [framerStage, h, ih, outPut]

/-- The first byte takes the marker with it. -/
theorem emitBytes_framer_first (b : Byte) (x : Bytes) (s : State) (h : s.mkf = false) :
    emitBytes (framerStage outPort) (b :: x) s =
      .go { s with outH := s.outH ++ (markerByte :: b :: x).map .byte, mkf := true } := by
  simp [framerStage, h, emitBytes_framer_sent, outPut]

/-- END after the marker was sent. -/
theorem framer_eos_sent (s : State) (h : s.mkf = true) :
    framerStage outPort .eos s = .go (finish { s with mkf := false }) := by
  simp [framerStage, h]

/-- END as the first token: the marker alone. -/
theorem framer_eos_first (s : State) (h : s.mkf = false) :
    framerStage outPort .eos s = .go (finish { outPut (.byte markerByte) s with mkf := false }) := by
  simp [framerStage, h]

/-! The packer -/

/-- The symbols of a byte are never none (40_pack_unpack.md R112). -/
theorem symbolsOf_cons (w : Width) (b : Byte) : ∃ c r, symbolsOf w b = c :: r := by
  cases w <;> exact ⟨_, _, rfl⟩

/-- Bytes through the packer into a sink are their symbols into that sink. -/
theorem emitBytes_packer (w : Width) (emit : Sink) (x : Bytes) (s : State) :
    emitBytes (packerStage w emit) x s = emitBytes emit (x.flatMap (symbolsOf w)) s := by
  induction x generalizing s with
  | nil => rfl
  | cons b x ih =>
    rw [emitBytes_cons, List.flatMap_cons, emitBytes_append]
    simp only [packerStage]
    cases emitBytes emit (symbolsOf w b) s with
    | go r => exact ih r
    | ended r => rfl

/-- The symbols of a byte are its packed form (40_pack_unpack.md R110). -/
theorem flatMap_symbolsOf_step (w : Width) (b : Byte) (x : Bytes) :
    (b :: x).flatMap (symbolsOf w) = symbolsOf w b ++ x.flatMap (symbolsOf w) := List.flatMap_cons

end Sys2Proof.Machine
end

