-- ==== Sys2Proof/Laws/Step.lean ====
section
/-! SUPPORT. What the step, a host move and the dispatch do, said once. -/

namespace Sys2Proof.Machine

@[simp] theorem step_idle (s : State) (h : s.script = []) : step s = .next s := by
  unfold step nextStep
  rw [h]

theorem step_move (s : State) (m : HostMove) (r : List HostMove) (h : s.script = m :: r) :
    step s = perform m { s with script := r } := by
  unfold step nextStep
  rw [h]

/-- All a step can do: nothing without a move, or the host's next move. -/
theorem step_cases (s s' : State) (h : step s = .next s') :
    (s.script = [] ∧ s' = s) ∨
    (∃ m r, s.script = m :: r ∧ perform m { s with script := r } = .next s') := by
  cases hs : s.script with
  | nil =>
    rw [step_idle s hs] at h
    cases h
    exact .inl ⟨rfl, rfl⟩
  | cons m r =>
    rw [step_move s m r hs] at h
    exact .inr ⟨m, r, rfl, h⟩

@[simp] theorem regWrite_cmd (v : Word) (s : State) : regWrite 1#3 v s = writeCmd v s := rfl

theorem regWrite_other (i : BitVec 3) (v : Word) (s : State) (h : i ≠ 1#3) : regWrite i v s = .next s := if_neg h

theorem writeCmd_busy (v : Word) (s : State) (h : s.seq = .busy) : writeCmd v s = .next (writeWhileBusy s) := by
  unfold writeCmd
  rw [h]

theorem writeCmd_legal (v : Word) (i : Instr) (s : State) (h : s.seq ≠ .busy) (hd : decodeCmd v = .ok i) :
    writeCmd v s = exec i s := by
  unfold writeCmd
  rw [hd]
  cases hs : s.seq <;> first | rfl | exact absurd hs h

theorem writeCmd_illegal (v : Word) (e : Reject) (s : State) (h : s.seq ≠ .busy) (hd : decodeCmd v = .error e) :
    writeCmd v s = .next (illegalCommand v s) := by
  unfold writeCmd
  rw [hd]
  cases hs : s.seq <;> first | rfl | exact absurd hs h

theorem consumeNext_free (s : State) (h : s.seq ≠ .busy) : consumeNext s = .next s := by
  unfold consumeNext
  cases hs : s.seq <;> first | rfl | exact absurd hs h

theorem consumeNext_none (s : State) (h : s.seq = .busy) (hq : s.inq = []) : consumeNext s = .next s := by
  unfold consumeNext
  rw [h, hq]

theorem consumeNext_eos (s : State) (r : List Token) (h : s.seq = .busy) (hq : s.inq = .eos :: r) :
    consumeNext s = runLatched s := by
  unfold consumeNext
  rw [h, hq]

theorem consumeNext_row (s : State) (b : Byte) (r : List Token) (i : Instr) (h : s.seq = .busy)
    (hq : s.inq = .byte b :: r) (hd : decodeByte (latchedWidth s) b = .ok i) :
    consumeNext s = exec i { s with inq := r } := by
  unfold consumeNext
  rw [h, hq]
  simp only [hd]

theorem consumeNext_plain (s : State) (b : Byte) (r : List Token) (e : Reject) (h : s.seq = .busy)
    (hq : s.inq = .byte b :: r) (hd : decodeByte (latchedWidth s) b = .error e) :
    consumeNext s = runLatched s := by
  unfold consumeNext
  rw [h, hq]
  simp only [hd]

/-- Every stream command's meaning is the streaming command with its word and its pipeline. -/
theorem exec_stream (i : Instr) (stages : List Stage) (h : pipelineOf i = some stages) :
    ∃ v, encode i = .cmd v ∧ ∀ s, exec i s = streamCommand v stages s := by
  cases i <;> simp only [pipelineOf, Option.some.injEq, reduceCtorEq] at h <;> subst h <;>
    exact ⟨_, rfl, fun _ => rfl⟩

/-- A byte row of the opcode table is the streaming of its byte. -/
theorem exec_byte (w : Width) (b : Byte) (i : Instr) (h : decodeByte w b = .ok i) (s : State) :
    exec i s = streamByte b s := by
  unfold decodeByte at h
  cases w <;> simp only at h <;> split at h <;> (try split at h) <;> (try split at h) <;> (try split at h) <;>
    (try split at h) <;> cases h <;> subst_vars <;> rfl

theorem streamByte_free (b : Byte) (s : State) (h : s.seq ≠ .busy) :
    streamByte b s = .next { s with inq := .byte b :: s.inq } := by
  unfold streamByte
  cases hs : s.seq <;> first | rfl | exact absurd hs h

theorem streamByte_busy (b : Byte) (s : State) (stages : List Stage) (h : s.seq = .busy)
    (hp : latchedPipeline s = some stages) :
    streamByte b s = .next (consumeThrough Config.params stages (.byte b) s) := by
  unfold streamByte
  rw [h]
  simp only [hp]

theorem streamByte_noCommand (b : Byte) (s : State) (h : s.seq = .busy) (hp : latchedPipeline s = none) :
    streamByte b s = .fault .noStreamCommand := by
  unfold streamByte
  rw [h]
  simp only [hp]

theorem runLatched_token (s : State) (stages : List Stage) (t : Token) (r : List Token) (h : s.seq = .busy)
    (hp : latchedPipeline s = some stages) (hq : s.inq = t :: r) :
    runLatched s = .next (consumeThrough Config.params stages t { s with inq := r }) := by
  unfold latchedPipeline at hp
  unfold runLatched
  cases hd : decodeCmd s.cmd with
  | error e => rw [hd] at hp; cases hp
  | ok i =>
    rw [hd] at hp
    simp only at hp
    obtain ⟨v, -, hx⟩ := exec_stream i stages hp
    simp only [hp, hx]
    exact streamCommand_token v stages s t r h hq

/-- Whatever the token, a Consume step is the latched command's pipeline on it. -/
theorem consumeNext_token (s : State) (stages : List Stage) (t : Token) (r : List Token) (h : s.seq = .busy)
    (hp : latchedPipeline s = some stages) (hq : s.inq = t :: r) :
    consumeNext s = .next (consumeThrough Config.params stages t { s with inq := r }) := by
  cases t with
  | eos => rw [consumeNext_eos s r h hq, runLatched_token s stages _ r h hp hq]
  | byte b =>
    cases hd : decodeByte (latchedWidth s) b with
    | ok i =>
      rw [consumeNext_row s b r i h hq hd, exec_byte _ b i hd]
      exact streamByte_busy b { s with inq := r } stages h hp
    | error e => rw [consumeNext_plain s b r e h hq hd, runLatched_token s stages _ r h hp hq]

/-- A token handed over while BUSY with no stream command in CMD stops the model (log 11). -/
theorem consumeNext_noCommand (s : State) (t : Token) (r : List Token) (h : s.seq = .busy)
    (hp : latchedPipeline s = none) (hq : s.inq = t :: r) : consumeNext s = .fault .noStreamCommand := by
  have hl : runLatched s = .fault .noStreamCommand := by
    unfold latchedPipeline at hp
    unfold runLatched
    cases hd : decodeCmd s.cmd with
    | error e => rfl
    | ok i =>
      rw [hd] at hp
      simp only at hp
      simp only [hp]
  cases t with
  | eos => rw [consumeNext_eos s r h hq, hl]
  | byte b =>
    cases hd : decodeByte (latchedWidth s) b with
    | ok i =>
      rw [consumeNext_row s b r i h hq hd, exec_byte _ b i hd]
      exact streamByte_noCommand b { s with inq := r } h hp
    | error e => rw [consumeNext_plain s b r e h hq hd, hl]

/-- All a Consume move can do: nothing where the step is not enabled, or the latched command's pipeline on the next
token. -/
theorem consumeNext_cases (s s' : State) (h : consumeNext s = .next s') :
    ((s.seq ≠ .busy ∨ s.inq = []) ∧ s' = s) ∨
    (s.seq = .busy ∧ ∃ stages t r, latchedPipeline s = some stages ∧ s.inq = t :: r ∧
      s' = consumeThrough Config.params stages t { s with inq := r }) := by
  by_cases hb : s.seq = .busy
  · cases hq : s.inq with
    | nil =>
      rw [consumeNext_none s hb hq] at h
      cases h
      exact .inl ⟨.inr rfl, rfl⟩
    | cons t r =>
      cases hp : latchedPipeline s with
      | none =>
        rw [consumeNext_noCommand s t r hb hp hq] at h
        cases h
      | some stages =>
        rw [consumeNext_token s stages t r hb hp hq] at h
        cases h
        exact .inr ⟨hb, stages, t, r, rfl, rfl, rfl⟩
  · rw [consumeNext_free s hb] at h
    cases h
    exact .inl ⟨.inl hb, rfl⟩

/-! Runs of the machine -/

/-- A run of any machine, one step taken off its front. -/
theorem run_unfold (M : Host.Core) (k : Nat) (s : M.State) :
    Host.Core.run M (k + 1) s =
      match M.step s with
      | .next t => Host.Core.run M k t
      | .fault r => .fault r
      | .refused r => .refused r := rfl

/-- A run of j + k steps of any machine is a run of k steps after one of j steps. -/
theorem run_split (M : Host.Core) (j k : Nat) (s t : M.State) (h : Host.Core.run M j s = .next t) :
    Host.Core.run M (j + k) s = Host.Core.run M k t := by
  induction j generalizing s with
  | zero =>
    cases h
    rw [Nat.zero_add]
  | succ j ih =>
    rw [run_unfold] at h
    rw [Nat.add_right_comm, run_unfold]
    cases hs : M.step s with
    | next u =>
      rw [hs] at h
      exact ih u h
    | fault r =>
      rw [hs] at h
      cases h
    | refused r =>
      rw [hs] at h
      cases h

/-- A run of any machine whose first step answers a next state goes on from there. -/
theorem run_first (M : Host.Core) (k : Nat) (s t : M.State) (h : M.step s = .next t) :
    Host.Core.run M (k + 1) s = Host.Core.run M k t := by
  rw [run_unfold, h]

theorem run_none (M : Host.Core) (s : M.State) : Host.Core.run M 0 s = .next s := rfl

theorem run_zero (s : State) : Host.Core.run Sys2Proof.core 0 s = .next s := run_none Sys2Proof.core s

/-- A run of the block whose first step answers a next state goes on from there. -/
theorem run_next (k : Nat) (s t : State) (h : step s = .next t) :
    Host.Core.run Sys2Proof.core (k + 1) s = Host.Core.run Sys2Proof.core k t :=
  run_first Sys2Proof.core k s t h

/-- A run of j + k steps of the block is a run of k steps after one of j steps. -/
theorem run_add (j k : Nat) (s t : State) (h : Host.Core.run Sys2Proof.core j s = .next t) :
    Host.Core.run Sys2Proof.core (j + k) s = Host.Core.run Sys2Proof.core k t :=
  run_split Sys2Proof.core j k s t h

end Sys2Proof.Machine
end

