-- ==== Sys2Proof/Laws/Pipelines.lean ====
section
/-! SUPPORT. Each of the ten pipelines in front of the OUT port, in closed form: what one Consume step makes of a
state (spec/43_composite_control.md R170). Then what holds of every pipeline: what a Consume step leaves alone, and
that it does not depend on it. -/

namespace Sys2Proof.Machine

variable (P : Params) (s : State) (w : Width) (b : Byte)

/-- The marker, where the framer has not sent it yet (42_framer_strip.md R151). -/
def pendingMarker (s : State) : List OutTok := if s.mkf then [] else [.byte markerByte]

theorem consume_pack_byte : consumeThrough P (packPipeline w) (.byte b) s =
    { s with outH := s.outH ++ (symbolsOf w b).map .byte } := by
  simp [consumeThrough, packPipeline, stageSink, packerStage, emitBytes_outPort]

theorem consume_pack_eos : consumeThrough P (packPipeline w) .eos s = finish s := rfl

theorem consume_unpack_byte : consumeThrough P (unpackPipeline w) (.byte b) s =
    if inCod w b then
      (if s.nb.setWidth 4 + BitVec.ofNat 4 (widthBits w) = 8#4 then
        { s with
          acc := 0#8, nb := 0#3, outH := s.outH ++ [.byte ((s.acc <<< widthBits w) ||| groupOf b)] }
      else
        { s with
          acc := (s.acc <<< widthBits w) ||| groupOf b
          nb := (s.nb.setWidth 4 + BitVec.ofNat 4 (widthBits w)).setWidth 3 })
    else s := by
  simp only [consumeThrough, unpackPipeline, pipeline_cons, pipeline_nil, stageSink, unpackerStage]
  split
  · split <;> rfl
  · rfl

theorem consume_unpack_eos : consumeThrough P (unpackPipeline w) .eos s =
    finish { s with acc := 0#8, nb := 0#3 } := rfl

theorem consume_frame_byte : consumeThrough P framePipeline (.byte b) s =
    { s with mkf := true, outH := s.outH ++ pendingMarker s ++ [.byte b] } := by
  simp only [consumeThrough, framePipeline, pipeline_cons, pipeline_nil, stageSink, framerStage, pendingMarker]
  cases hm : s.mkf <;> simp [outPut, hm]

theorem consume_frame_eos : consumeThrough P framePipeline .eos s =
    { s with mkf := false, seq := .done, outH := s.outH ++ pendingMarker s ++ [.fin .none] } := by
  simp only [consumeThrough, framePipeline, pipeline_cons, pipeline_nil, stageSink, framerStage, pendingMarker]
  cases hm : s.mkf <;> simp [outPut, finish]

theorem consume_strip_byte : consumeThrough P (stripPipeline w) (.byte b) s =
    if inCod w b then s
    else if b = markerByte then
      { s with sp := true, outH := s.outH ++ (if s.sp then [.byte markerByte] else []) }
    else
      { s with sp := false, outH := s.outH ++ (if s.sp then [.byte markerByte] else []) ++ [.byte b] } := by
  simp only [consumeThrough, stripPipeline, pipeline_cons, pipeline_nil, stageSink, stripperStage]
  by_cases hc : inCod w b = true
  · simp [hc]
  · simp only [hc]
    by_cases hm : b = markerByte
    · subst hm
      cases hs : s.sp <;> simp [outPut]
    · cases hs : s.sp <;> simp [outPut, hm, hs]

theorem consume_strip_eos : consumeThrough P (stripPipeline w) .eos s = finish { s with sp := false } := rfl

theorem consume_compress_byte : consumeThrough P compressPipeline (.byte b) s = zStore P b s := rfl

theorem consume_compress_eos : consumeThrough P compressPipeline .eos s =
    if s.ovf then enterFault .overflow s
    else finish { reportSizes (P.zc s.zbuf) s with outH := s.outH ++ (P.zc s.zbuf).map .byte } := by
  simp only [consumeThrough, compressPipeline, pipeline_cons, pipeline_nil, stageSink, compressorStage]
  cases ho : s.ovf <;> simp [emitBytes_outPort, raiseFault]

theorem consume_decompress_byte : consumeThrough P decompressPipeline (.byte b) s = zStore P b s := rfl

theorem consume_decompress_eos : consumeThrough P decompressPipeline .eos s =
    if s.ovf then enterFault .overflow s
    else match P.zd s.zbuf with
      | none => enterFault .malformed s
      | some r =>
        if P.fits r.length then finish { s with zbuf := [], outH := s.outH ++ r.map .byte }
        else enterFault .overflow s := by
  simp only [consumeThrough, decompressPipeline, pipeline_cons, pipeline_nil, stageSink, decompressorStage]
  cases ho : s.ovf
  · cases hz : P.zd s.zbuf with
    | none => simp [raiseFault]
    | some r => cases hf : P.fits r.length <;> simp [hf, raiseFault, emitBytes_outPort]
  · simp [raiseFault]

theorem consume_hide_byte : consumeThrough P (hidePipeline w false) (.byte b) s =
    { s with mkf := true, outH := s.outH ++ pendingMarker s ++ (symbolsOf w b).map .byte } := by
  simp only [consumeThrough, hidePipeline, Bool.false_eq_true, if_false, pipeline_cons, pipeline_nil, stageSink,
    packerStage, pendingMarker]
  obtain ⟨c, r, hcr⟩ := symbolsOf_cons w b
  cases hm : s.mkf
  · rw [hcr, emitBytes_framer_first _ _ _ (by simpa using hm)]
    simp
  · rw [emitBytes_framer_sent _ _ (by simpa using hm)]
    simp [hm]

theorem consume_hide_eos : consumeThrough P (hidePipeline w false) .eos s =
    { s with mkf := false, seq := .done, outH := s.outH ++ pendingMarker s ++ [.fin .none] } :=
  consume_frame_eos P s

theorem consume_hidez_byte : consumeThrough P (hidePipeline w true) (.byte b) s = zStore P b s := rfl

theorem consume_hidez_eos : consumeThrough P (hidePipeline w true) .eos s =
    if s.ovf then enterFault .overflow s
    else
      finish { reportSizes (P.zc s.zbuf) s with
        mkf := false
        outH := s.outH ++ pendingMarker s ++ ((P.zc s.zbuf).flatMap (symbolsOf w)).map .byte } := by
  simp only [consumeThrough, hidePipeline, if_true, pipeline_cons, pipeline_nil, stageSink, compressorStage]
  cases ho : s.ovf
  · simp only [Bool.false_eq_true, if_false, emitBytes_packer, pendingMarker]
    generalize List.flatMap (symbolsOf w) (P.zc s.zbuf) = x
    cases hm : s.mkf
    · cases x with
      | nil => simp [packerStage, framerStage, reportSizes, hm, outPut, finish]
      | cons c r =>
        rw [emitBytes_framer_first _ _ _ (by simpa [reportSizes] using hm)]
        simp [packerStage, framerStage, reportSizes, outPut, finish]
    · rw [emitBytes_framer_sent _ _ (by simpa [reportSizes] using hm)]
      simp [packerStage, framerStage, reportSizes, hm, outPut, finish]
  · simp [raiseFault]

/-- EXTRACT without the optional stage is UNPACK (43_composite_control.md R173). -/
theorem consume_extract : consumeThrough P (extractPipeline w false) = consumeThrough P (unpackPipeline w) := rfl

theorem consume_extractz_byte : consumeThrough P (extractPipeline w true) (.byte b) s =
    if inCod w b then
      (if s.nb.setWidth 4 + BitVec.ofNat 4 (widthBits w) = 8#4 then
        { zStore P ((s.acc <<< widthBits w) ||| groupOf b) s with acc := 0#8, nb := 0#3 }
      else
        { s with
          acc := (s.acc <<< widthBits w) ||| groupOf b
          nb := (s.nb.setWidth 4 + BitVec.ofNat 4 (widthBits w)).setWidth 3 })
    else s := by
  simp only [consumeThrough, extractPipeline, if_true, pipeline_cons, stageSink, unpackerStage,
    decompressorStage]
  split
  · split <;> rfl
  · rfl

theorem consume_extractz_eos : consumeThrough P (extractPipeline w true) .eos s =
    consumeThrough P decompressPipeline .eos { s with acc := 0#8, nb := 0#3 } := rfl

/-! Of every pipeline -/

/-- A pipeline is one of ten. -/
theorem pipelineOf_cases (i : Instr) (stages : List Stage) (h : pipelineOf i = some stages) :
    (∃ w, i = .pack w ∧ stages = packPipeline w) ∨ (∃ w, i = .unpack w ∧ stages = unpackPipeline w) ∨
    (i = .frame ∧ stages = framePipeline) ∨ (∃ w, i = .strip w ∧ stages = stripPipeline w) ∨
    (i = .compress ∧ stages = compressPipeline) ∨ (i = .decompress ∧ stages = decompressPipeline) ∨
    (∃ w, i = .hide w false ∧ stages = hidePipeline w false) ∨
    (∃ w, i = .hide w true ∧ stages = hidePipeline w true) ∨
    (∃ w, i = .extract w false ∧ stages = extractPipeline w false) ∨
    (∃ w, i = .extract w true ∧ stages = extractPipeline w true) := by
  rcases i with _ | w | w | _ | w | _ | _ | ⟨w, ce⟩ | ⟨w, ce⟩ | _ | _ | _ | _ | _ | _ | _ <;>
    simp only [pipelineOf, Option.some.injEq, reduceCtorEq] at h <;> subst h <;> (try cases ce) <;> simp

/-- What the step's tokens, the host's plans and the control port's flag are after a Consume step: as before. -/
theorem consume_keeps (i : Instr) (stages : List Stage) (h : pipelineOf i = some stages) (t : Token) :
    (consumeThrough P stages t s).cmd = s.cmd ∧ (consumeThrough P stages t s).busywr = s.busywr ∧
    (consumeThrough P stages t s).inq = s.inq ∧ (consumeThrough P stages t s).script = s.script ∧
    (consumeThrough P stages t s).readH = s.readH := by
  rcases pipelineOf_cases i stages h with ⟨w, -, rfl⟩ | ⟨w, -, rfl⟩ | ⟨-, rfl⟩ | ⟨w, -, rfl⟩ | ⟨-, rfl⟩ | ⟨-, rfl⟩ |
      ⟨w, -, rfl⟩ | ⟨w, -, rfl⟩ | ⟨w, -, rfl⟩ | ⟨w, -, rfl⟩ <;> cases t <;>
    simp only [consume_extract, consume_pack_byte, consume_pack_eos, consume_unpack_byte, consume_unpack_eos,
      consume_frame_byte, consume_frame_eos, consume_strip_byte, consume_strip_eos, consume_hide_byte,
      consume_hide_eos, consume_compress_byte, consume_compress_eos, consume_decompress_byte,
      consume_decompress_eos, consume_hidez_byte, consume_hidez_eos, consume_extractz_byte, consume_extractz_eos,
      finish, outPut, enterFault, zStore, reportSizes, clearWorking] <;>
    (repeat' split) <;> simp

/-- A byte leaves STATE alone; only END ends an operation (10_state.md R24). -/
theorem consume_byte_seq (i : Instr) (stages : List Stage) (h : pipelineOf i = some stages) :
    (consumeThrough P stages (.byte b) s).seq = s.seq := by
  rcases pipelineOf_cases i stages h with ⟨w, -, rfl⟩ | ⟨w, -, rfl⟩ | ⟨-, rfl⟩ | ⟨w, -, rfl⟩ | ⟨-, rfl⟩ | ⟨-, rfl⟩ |
      ⟨w, -, rfl⟩ | ⟨w, -, rfl⟩ | ⟨w, -, rfl⟩ | ⟨w, -, rfl⟩ <;>
    simp only [consume_extract, consume_pack_byte, consume_unpack_byte, consume_frame_byte, consume_strip_byte,
      consume_hide_byte, consume_compress_byte, consume_decompress_byte, consume_hidez_byte, consume_extractz_byte,
      zStore] <;>
    (repeat' split) <;> simp

/-- `s` with another environment: `o` in front of the OUT history, other tokens, plans, read history and BUSYWR. -/
def inPlace (o : List OutTok) (q : List Token) (m : List HostMove) (r : List (BitVec 3 × Word)) (f : Bool)
    (s : State) : State :=
  { s with outH := o ++ s.outH, inq := q, script := m, readH := r, busywr := f }

/-- A Consume step does not depend on the environment it runs in (20_memory.md R55, R65). -/
theorem consume_inPlace (i : Instr) (stages : List Stage) (h : pipelineOf i = some stages) (t : Token)
    (o : List OutTok) (q : List Token) (m : List HostMove) (r : List (BitVec 3 × Word)) (f : Bool) :
    consumeThrough P stages t (inPlace o q m r f s) = inPlace o q m r f (consumeThrough P stages t s) := by
  rcases pipelineOf_cases i stages h with ⟨w, -, rfl⟩ | ⟨w, -, rfl⟩ | ⟨-, rfl⟩ | ⟨w, -, rfl⟩ | ⟨-, rfl⟩ | ⟨-, rfl⟩ |
      ⟨w, -, rfl⟩ | ⟨w, -, rfl⟩ | ⟨w, -, rfl⟩ | ⟨w, -, rfl⟩ <;> cases t <;>
    simp only [consume_extract, consume_pack_byte, consume_pack_eos, consume_unpack_byte, consume_unpack_eos,
      consume_frame_byte, consume_frame_eos, consume_strip_byte, consume_strip_eos, consume_hide_byte,
      consume_hide_eos, consume_compress_byte, consume_compress_eos, consume_decompress_byte,
      consume_decompress_eos, consume_hidez_byte, consume_hidez_eos, consume_extractz_byte, consume_extractz_eos,
      finish, outPut, enterFault, zStore, reportSizes, clearWorking, inPlace, pendingMarker] <;>
    (repeat' split) <;> simp_all

/-- The latched pipeline depends on CMD alone. -/
theorem latchedPipeline_cmd (s t : State) (h : s.cmd = t.cmd) : latchedPipeline s = latchedPipeline t := by
  unfold latchedPipeline
  rw [h]

/-- A latched pipeline is that of the command in CMD. -/
theorem latchedPipeline_some (s : State) (stages : List Stage) (h : latchedPipeline s = some stages) :
    ∃ i, decodeCmd s.cmd = .ok i ∧ pipelineOf i = some stages := by
  unfold latchedPipeline at h
  split at h
  · exact ⟨_, by assumption, h⟩
  · cases h

/-- A Consume move in a state where the step is enabled. -/
theorem step_consume (s : State) (stages : List Stage) (t : Token) (q : List Token) (r : List HostMove)
    (hm : s.script = .consume :: r) (hb : s.seq = .busy) (hp : latchedPipeline s = some stages)
    (hq : s.inq = t :: q) :
    step s = .next (consumeThrough Config.params stages t { s with inq := q, script := r }) := by
  rw [step_move s _ r hm]
  exact consumeNext_token { s with script := r } stages t q hb hp hq

end Sys2Proof.Machine
end

