-- ==== Sys2Proof/Tests/Slice0.lean ====
section
/-! SUPPORT. The model's own tests. Expected values come from spec/30_encoding.md (the written-out words) and
spec/95_test_vectors.md (the vector's name stands in each test's name); then one witness for each clause of each
statement that has hypotheses. -/

namespace Sys2Proof.Tests

open Sys2Proof.Machine Sys2Proof.Claims

/-! ### Helpers -/

/-- The state an outcome answers, if it is a next state. -/
def nextOf (o : Host.Outcome State Fault Refusal) : Option State :=
  match o with
  | .next s => some s
  | .fault _ => none
  | .refused _ => none

theorem outcome_of_nextOf (o : Host.Outcome State Fault Refusal) (t : State) (h : nextOf o = some t) :
    o = .next t := by
  cases o <;> simp_all [nextOf]

/-- The word of a command; 0 for a byte row. -/
def wordFor (i : Instr) : Word :=
  match encode i with
  | .cmd v => v
  | .byte _ => 0#32

/-- Reset, then BUSY with `i` latched and the tokens `q` on offer. -/
def busyOn (i : Instr) (q : List Token) : State :=
  { State.reset with seq := .busy, cmd := wordFor i, inq := q }

/-- Reset, with `v` as the host's next write to CMD. -/
def writing (v : Word) : State := { State.reset with script := [.regWrite 1#3 v] }

/-- The test pair of 95_test_vectors.md section 1. -/
def testCodec : Codec :=
  { zc := fun x => 0x5A#8 :: x
    zd := fun y => match y with
      | [] => none
      | b :: r => if b = 0x5A#8 then some r else none
    law := fun x => by simp }

/-- The test pair with ZBUF_CAP = `cap`. -/
def testParams (cap : Option Nat) : Params := { codec := testCodec, cap := cap }

/-- One Consume step of `i` under the test pair. -/
def consumeTest (cap : Option Nat) (i : Instr) (t : Token) (s : State) : State :=
  consumeThrough (testParams cap) ((pipelineOf i).getD []) t s

/-- A whole input through `i` under the test pair, from the start of the operation. -/
def operationTest (cap : Option Nat) (i : Instr) (x : Bytes) : State :=
  (inputStream x).foldl (fun s t => consumeTest cap i t s) (acceptCommand (wordFor i) State.reset)

/-- What the tests look at after an operation: OUT, STATUS and the two lengths. -/
def reportOf (s : State) : List OutTok × Word × Word × Word := (s.outH, statusWord s, s.zlenIn, s.zlenOut)

/-! ### WellFormed refuses (30_encoding.md R93) -/

theorem test_wf_reserved_bits : (CmdFields.wellFormed ⟨1#26, 0#1, 0#1, 0#4⟩) = false := by decide

theorem test_wf_reserved_op : (CmdFields.wellFormed ⟨0#26, 0#1, 0#1, 9#4⟩) = false := by decide

theorem test_wf_unused_width : (CmdFields.wellFormed ⟨0#26, 0#1, 1#1, 3#4⟩) = false := by decide

theorem test_wf_unused_ce : (CmdFields.wellFormed ⟨0#26, 1#1, 0#1, 1#4⟩) = false := by decide

theorem test_wf_accepts : (CmdFields.wellFormed ⟨0#26, 1#1, 1#1, 8#4⟩) = true := by decide

/-! ### Decoding: words and bytes written out from 30_encoding.md R90 to R92, R80, R84 -/

theorem test_decode_clr : decodeCmd 0b00000000000000000000000000000000#32 = .ok .clr := by decide

theorem test_decode_pack :
    decodeCmd 0b00000000000000000000000000000001#32 = .ok (.pack .w1) ∧
    decodeCmd 0b00000000000000000000000000010001#32 = .ok (.pack .w2) := by decide

theorem test_decode_unpack :
    decodeCmd 0b00000000000000000000000000000010#32 = .ok (.unpack .w1) ∧
    decodeCmd 0b00000000000000000000000000010010#32 = .ok (.unpack .w2) := by decide

theorem test_decode_frame : decodeCmd 0b00000000000000000000000000000011#32 = .ok .frame := by decide

theorem test_decode_strip :
    decodeCmd 0b00000000000000000000000000000100#32 = .ok (.strip .w1) ∧
    decodeCmd 0b00000000000000000000000000010100#32 = .ok (.strip .w2) := by decide

theorem test_decode_compress : decodeCmd 0b00000000000000000000000000000101#32 = .ok .compress := by decide

theorem test_decode_decompress : decodeCmd 0b00000000000000000000000000000110#32 = .ok .decompress := by decide

theorem test_decode_hide :
    decodeCmd 0b00000000000000000000000000000111#32 = .ok (.hide .w1 false) ∧
    decodeCmd 0b00000000000000000000000000010111#32 = .ok (.hide .w2 false) ∧
    decodeCmd 0b00000000000000000000000000100111#32 = .ok (.hide .w1 true) ∧
    decodeCmd 0b00000000000000000000000000110111#32 = .ok (.hide .w2 true) := by decide

theorem test_decode_extract :
    decodeCmd 0b00000000000000000000000000001000#32 = .ok (.extract .w1 false) ∧
    decodeCmd 0b00000000000000000000000000011000#32 = .ok (.extract .w2 false) ∧
    decodeCmd 0b00000000000000000000000000101000#32 = .ok (.extract .w1 true) ∧
    decodeCmd 0b00000000000000000000000000111000#32 = .ok (.extract .w2 true) := by decide

theorem test_decode_symbols_width1 :
    decodeByte .w1 0b00011100#8 = .ok .sym1_0 ∧ decodeByte .w1 0b00011101#8 = .ok .sym1_1 ∧
    decodeByte .w1 0b00011110#8 = .error .notTableByte ∧ decodeByte .w1 0b00011111#8 = .error .notTableByte := by
  decide

theorem test_decode_symbols_width2 :
    decodeByte .w2 0b00011100#8 = .ok .sym2_00 ∧ decodeByte .w2 0b00011101#8 = .ok .sym2_01 ∧
    decodeByte .w2 0b00011110#8 = .ok .sym2_10 ∧ decodeByte .w2 0b00011111#8 = .ok .sym2_11 ∧
    decodeByte .w2 0b00011011#8 = .error .notTableByte := by decide

theorem test_decode_marker :
    decodeByte .w1 0b00100000#8 = .ok .marker ∧ decodeByte .w2 0b00100000#8 = .ok .marker := by decide

/-- X1, X2: OP 9 and 15. -/
theorem test_illegal_op :
    decodeCmd 0x00000009#32 = .error .reservedOp ∧ decodeCmd 0x0000000F#32 = .error .reservedOp := by decide

/-- X3, X4, X10: W set where it is not used. -/
theorem test_illegal_width :
    decodeCmd 0x00000010#32 = .error .unusedWidth ∧ decodeCmd 0x00000013#32 = .error .unusedWidth ∧
    decodeCmd 0x00000015#32 = .error .unusedWidth ∧ decodeCmd 0x00000016#32 = .error .unusedWidth := by decide

/-- X5, X6, X11: CE set where it is not used. -/
theorem test_illegal_ce :
    decodeCmd 0x00000021#32 = .error .unusedCe ∧ decodeCmd 0x00000025#32 = .error .unusedCe ∧
    decodeCmd 0x00000022#32 = .error .unusedCe ∧ decodeCmd 0x00000034#32 = .error .unusedCe := by decide

/-- X7, X8, X9: a bit of 31:6 set. -/
theorem test_illegal_reserved :
    decodeCmd 0x00000040#32 = .error .reservedBits ∧ decodeCmd 0x00000100#32 = .error .reservedBits ∧
    decodeCmd 0xFFFFFFFF#32 = .error .reservedBits := by decide

/-- The texts of 30_encoding.md R96, three of them. -/
theorem test_texts :
    textOf (.unpack .w2) = "UNPACK.2" ∧ textOf (.hide .w1 true) = "HIDE.1.Z" ∧ textOf .clr = "CLR" :=
  ⟨rfl, rfl, rfl⟩

/-- The host's two questions, one command row and one byte row. -/
theorem test_table_rows :
    decodeTableWord 32 0x00000038 = some (.extract .w2 true) ∧ decodeTableWord 8 0x1E = some .sym2_10 ∧
    decodeTableWord 32 0x00000010 = none ∧ decodeTableWord 8 0x21 = none := by decide

theorem test_fetch_word_command :
    ((nextOf (step (State.reset.withFetchWord 32 0x11))).map fun t => (t.seq, t.cmd)) =
      some (.busy, 0x00000011#32) := by decide

theorem test_fetch_word_byte :
    ((nextOf (step (State.reset.withFetchWord 8 0x1F))).map fun t => (t.acc, t.nb, t.inq)) =
      some (0x03#8, 2#3, []) := by decide

/-! ### One step of each instruction -/

/-- Q3: CLR clears STATUS and both lengths. -/
theorem test_clr_q3 :
    ((nextOf (exec .clr { State.reset with seq := .done, cmd := 0x37#32, zlenIn := 1#32, zlenOut := 2#32 })).map
      fun t => (statusWord t, t.cmd, t.zlenIn, t.zlenOut)) = some (0x000#32, 0#32, 0#32, 0#32) := by decide

/-- Q7: CLR while BUSY does not abort. -/
theorem test_clr_q7 :
    ((nextOf (exec .clr (busyOn (.pack .w1) []))).map fun t => (statusWord t, t.cmd)) =
      some (0x101#32, 0x00000001#32) := by decide

/-- K4, width 1: the most significant bit goes out first. -/
theorem test_pack_k4 :
    ((nextOf (exec (.pack .w1) (busyOn (.pack .w1) [.byte 0x80#8]))).map fun t => t.outH) =
      some ([0x1D#8, 0x1C#8, 0x1C#8, 0x1C#8, 0x1C#8, 0x1C#8, 0x1C#8, 0x1C#8].map .byte) := by decide

/-- K7, width 2: the four symbols in ascending order. -/
theorem test_pack_k7 :
    ((nextOf (exec (.pack .w2) (busyOn (.pack .w2) [.byte 0x1B#8]))).map fun t => t.outH) =
      some ([0x1C#8, 0x1D#8, 0x1E#8, 0x1F#8].map .byte) := by decide

/-- U6, the eighth symbol of the trace: 7F becomes the byte FF. -/
theorem test_unpack_u6 :
    ((nextOf (exec (.unpack .w1)
      { busyOn (.unpack .w1) [.byte 0x1D#8] with acc := 0x7F#8, nb := 7#3 })).map
        fun t => (t.outH, t.acc, t.nb)) = some ([.byte 0xFF#8], 0#8, 0#3) := by decide

/-- U12: 0x1E is noise at width 1. -/
theorem test_unpack_u12 :
    ((nextOf (exec (.unpack .w1) { busyOn (.unpack .w1) [.byte 0x1E#8] with nb := 1#3 })).map
      fun t => (t.outH, t.acc, t.nb)) = some ([], 0#8, 1#3) := by decide

/-- F2: the marker goes out with the first byte, before it. -/
theorem test_frame_f2 :
    ((nextOf (exec .frame (busyOn .frame [.byte 0x1C#8]))).map fun t => (t.outH, t.mkf)) =
      some ([.byte 0x20#8, .byte 0x1C#8], true) := by decide

/-- F1: END as the first token gives the marker alone. -/
theorem test_frame_f1 :
    ((nextOf (exec .frame (busyOn .frame [.eos]))).map fun t => (t.outH, statusWord t, t.mkf)) =
      some ([.byte 0x20#8, .fin .none], 0x002#32, false) := by decide

/-- S10, width 2: the held-back space goes out before the next kept byte. -/
theorem test_strip_s10 :
    ((nextOf (exec (.strip .w2) { busyOn (.strip .w2) [.byte 0x62#8] with sp := true })).map
      fun t => (t.outH, t.sp)) = some ([.byte 0x20#8, .byte 0x62#8], false) := by decide

/-- S2: a held-back space is dropped at END. -/
theorem test_strip_s2 :
    ((nextOf (exec (.strip .w1) { busyOn (.strip .w1) [.eos] with sp := true })).map
      fun t => (t.outH, t.sp, statusWord t)) = some ([.fin .none], false, 0x002#32) := by decide

/-- Z2: the result and both lengths. -/
theorem test_compress_z2 :
    reportOf (operationTest none .compress [0x41#8]) =
      ([.byte 0x5A#8, .byte 0x41#8, .fin .none], 0x002#32, 1#32, 2#32) := by decide

/-- Z4: the third byte does not fit; nothing but END(3) goes out. -/
theorem test_compress_z4 :
    reportOf (operationTest (some 2) .compress [0x01#8, 0x02#8, 0x03#8]) =
      ([.fin .overflow], 0x033#32, 0#32, 0#32) := by decide

/-- Z6: not a compressed stream. -/
theorem test_decompress_z6 :
    reportOf (operationTest none .decompress [0x41#8]) = ([.fin .malformed], 0x023#32, 0#32, 0#32) := by decide

/-- Z9: the last input that fits. -/
theorem test_decompress_z9 :
    reportOf (operationTest (some 2) .decompress [0x5A#8, 0x01#8]) =
      ([.byte 0x01#8, .fin .none], 0x002#32, 0#32, 0#32) := by decide

/-- H3: an empty secret is the marker alone. -/
theorem test_hide_h3 :
    ((nextOf (exec (.hide .w2 false) (busyOn (.hide .w2 false) [.eos]))).map fun t => t.outH) =
      some [.byte 0x20#8, .fin .none] := by decide

/-- H4: compressed, packed, framed, all at END. -/
theorem test_hide_h4 :
    reportOf (operationTest none (.hide .w2 true) [0x41#8]) =
      ([0x20#8, 0x1D#8, 0x1D#8, 0x1E#8, 0x1E#8, 0x1D#8, 0x1C#8, 0x1C#8, 0x1D#8].map .byte ++ [.fin .none],
        0x002#32, 1#32, 2#32) := by decide

/-- H8: unpacked and decompressed, noise and marker ignored. -/
theorem test_extract_h8 :
    reportOf (operationTest none (.extract .w2 true)
      [0x61#8, 0x62#8, 0x20#8, 0x1D#8, 0x1D#8, 0x1E#8, 0x1E#8, 0x1D#8, 0x1C#8, 0x1C#8, 0x1D#8]) =
      ([.byte 0x41#8, .fin .none], 0x002#32, 0#32, 0#32) := by decide

/-- H12, its last two tokens: the unpacker's third byte overflows a buffer of two, and END raises the fault. -/
theorem test_extract_h12 :
    reportOf (consumeTest (some 2) (.extract .w2 true) .eos (consumeTest (some 2) (.extract .w2 true) (.byte 0x1E#8)
      { busyOn (.extract .w2 true) [] with nb := 6#3, zbuf := [0x5A#8, 0x01#8] })) =
      ([.fin .overflow], 0x033#32, 0#32, 0#32) := by decide

/-- The width-1 rows: one bit each. -/
theorem test_symbols_width1 :
    ((nextOf (exec .sym1_0 { busyOn (.unpack .w1) [] with acc := 1#8, nb := 1#3 })).map fun t => (t.acc, t.nb)) =
      some (2#8, 2#3) ∧
    ((nextOf (exec .sym1_1 { busyOn (.unpack .w1) [] with acc := 1#8, nb := 1#3 })).map fun t => (t.acc, t.nb)) =
      some (3#8, 2#3) := by decide

/-- The width-2 rows: two bits each (the accumulator of U4 after its first symbols). -/
theorem test_symbols_width2 :
    ((nextOf (exec .sym2_00 { busyOn (.unpack .w2) [] with acc := 1#8, nb := 2#3 })).map fun t => (t.acc, t.nb)) =
      some (4#8, 4#3) ∧
    ((nextOf (exec .sym2_01 (busyOn (.unpack .w2) []))).map fun t => (t.acc, t.nb)) = some (1#8, 2#3) ∧
    ((nextOf (exec .sym2_10 { busyOn (.unpack .w2) [] with acc := 1#8, nb := 4#3 })).map fun t => (t.acc, t.nb)) =
      some (6#8, 6#3) ∧
    ((nextOf (exec .sym2_11 { busyOn (.unpack .w2) [] with acc := 6#8, nb := 6#3 })).map fun t => t.outH) =
      some [.byte 0x1B#8] := by decide

/-- The marker: ignored by UNPACK, packed as data by PACK (section 4: PACK.2 on 20). -/
theorem test_marker :
    ((nextOf (exec .marker (busyOn (.unpack .w1) []))).map fun t => (t.acc, t.nb, t.outH)) = some (0#8, 0#3, []) ∧
    ((nextOf (exec .marker (busyOn (.pack .w2) []))).map fun t => t.outH) =
      some ([0x1C#8, 0x1E#8, 0x1C#8, 0x1C#8].map .byte) := by decide

/-! ### Registers, faults, reset -/

/-- Q8, P1: ID and STATUS read, and an unmapped index reads 0. -/
theorem test_register_reads :
    regValue 0#3 State.reset = 0x54530707#32 ∧ regValue 2#3 (busyOn .frame []) = 0x00000001#32 ∧
    regValue 2#3 { State.reset with seq := .fault, err := .overflow, busywr := true } = 0x00000133#32 ∧
    regValue 7#3 State.reset = 0#32 := by decide

/-- X1 and Q4: an illegal word, and a legal one that leaves FAULT. -/
theorem test_illegal_then_pack :
    ((nextOf (step (writing 0x00000009#32))).map fun t => (statusWord t, t.cmd, t.outH)) =
      some (0x013#32, 0x00000009#32, []) ∧
    ((nextOf (step { writing 0x00000001#32 with seq := .fault, err := .illegalCmd })).map fun t => statusWord t) =
      some 0x001#32 := by decide

/-- Q10: Reset keeps what is on OUT and adds no END. -/
theorem test_reset_q10 :
    ((nextOf (step { busyOn (.pack .w1) [] with outH := [.byte 0x1C#8], script := [.reset] })).map
      fun t => (statusWord t, t.cmd, t.outH)) = some (0x000#32, 0#32, [.byte 0x1C#8]) := by decide

/-- 30_encoding.md R86: the data bits of an end beat are ignored. -/
theorem test_beats :
    tokenOfBeat 0b000011100#9 = .byte 0x1C#8 ∧ tokenOfBeat 0b100000001#9 = .eos ∧
    beatOfOut (.fin .overflow) = 0b100000011#9 := by decide

/-- Whole sequences: E1, U13, S9 and S14. -/
theorem test_contracts :
    pack .w1 [0x41#8] = [0x1C#8, 0x1D#8, 0x1C#8, 0x1C#8, 0x1C#8, 0x1C#8, 0x1C#8, 0x1D#8] ∧
    unpack .w2 [0x1C#8, 0x1D#8, 0x1C#8, 0x1C#8, 0x1C#8, 0x1C#8, 0x1C#8, 0x1D#8] = [0x10#8, 0x01#8] ∧
    strip .w1 [0x61#8, 0x1E#8, 0x20#8, 0x1C#8] = [0x61#8, 0x1E#8] ∧
    strip .w2 [0x61#8, 0x20#8, 0x1D#8, 0x1C#8, 0x1C#8, 0x1D#8, 0x20#8, 0x1D#8, 0x1C#8, 0x1C#8, 0x1E#8] =
      [0x61#8, 0x20#8] := by decide

/-! ### Witnesses: concrete states and operands that meet each statement's hypotheses -/

/-- BUSY in `i`, the tokens `q` on offer, and a hand-over as the next move. -/
def consuming (i : Instr) (q : List Token) : State := { busyOn i q with script := [.consume] }

/-- Reset, with a whole operation of `i` over `x` ahead. -/
def planned (i : Instr) (x : Bytes) : State :=
  { State.reset with script := operationMoves (wordFor i) x.length, inq := inputStream x }

theorem witness_DecodeAndEncode :
    decode .w1 (.byte 0x1D#8) = .ok .sym1_1 ∧ readAt .w1 .sym1_1 = true ∧ encode .sym1_1 = .byte 0x1D#8 := by decide

theorem witness_GroupsAndSymbols :
    ((1#8).toNat < 2 ^ widthBits .w1 ∧ (3#8).toNat < 2 ^ widthBits .w2) ∧
    inCod .w1 0x1D#8 = true ∧ inCod .w2 0x1C#8 = true ∧ inCod .w2 0x1F#8 = true := by decide

theorem witness_StepRuns_word :
    (writing 0x38#32).script = .regWrite 1#3 0x38#32 :: [] ∧ (writing 0x38#32).seq ≠ .busy ∧
    decodeCmd 0x38#32 = .ok (.extract .w2 true) := by decide

theorem witness_StepRuns_row :
    (consuming .frame [.byte 0x1D#8]).script = .consume :: [] ∧ (consuming .frame [.byte 0x1D#8]).seq = .busy ∧
    (consuming .frame [.byte 0x1D#8]).inq = .byte 0x1D#8 :: [] ∧
    decodeByte (latchedWidth (consuming .frame [.byte 0x1D#8])) 0x1D#8 = .ok .sym1_1 := by decide

theorem witness_StepRuns_plain :
    (consuming .frame [.byte 0x1E#8]).seq = .busy ∧ (consuming .frame [.byte 0x1E#8]).inq = .byte 0x1E#8 :: [] ∧
    decodeByte (latchedWidth (consuming .frame [.byte 0x1E#8])) 0x1E#8 = .error .notTableByte ∧
    decodeCmd (consuming .frame [.byte 0x1E#8]).cmd = .ok .frame ∧ (pipelineOf .frame).isSome = true := by decide

theorem witness_StepRuns_end :
    (consuming (.pack .w2) [.eos]).script = .consume :: [] ∧ (consuming (.pack .w2) [.eos]).seq = .busy ∧
    (consuming (.pack .w2) [.eos]).inq = .eos :: [] ∧
    decodeCmd (consuming (.pack .w2) [.eos]).cmd = .ok (.pack .w2) ∧
    (pipelineOf (.pack .w2)).isSome = true := by decide

theorem witness_RegisterReads :
    ({ State.reset with script := [.regRead 0#3] } : State).script = .regRead 0#3 :: [] ∧
    ({ State.reset with script := [.regRead 4#3] } : State).script = .regRead 4#3 :: [] ∧
    ({ State.reset with script := [.regRead 5#3] } : State).script = .regRead 5#3 :: [] := by decide

theorem witness_OnlyCmd_other :
    ({ State.reset with script := [.regWrite 7#3 1#32] } : State).script = .regWrite 7#3 1#32 :: [] ∧
    7#3 ≠ 1#3 := by decide

theorem witness_OnlyCmd_twice :
    ({ State.reset with script := [.regWrite 1#3 3#32, .regWrite 1#3 3#32] } : State).script =
      .regWrite 1#3 3#32 :: .regWrite 1#3 3#32 :: [] ∧
    State.reset.seq ≠ .busy ∧ 3#32 ∈ legalWords ∧ 3#32 ≠ 0#32 := by decide

theorem witness_EveryCmdWrite_write :
    (writing 0#32).script = .regWrite 1#3 0#32 :: [] ∧ (writing 0x38#32).script = .regWrite 1#3 0x38#32 :: [] ∧
    (writing 0x40#32).script = .regWrite 1#3 0x40#32 :: [] ∧ (writing 0x40#32).seq ≠ .busy ∧
    0x38#32 ∈ legalWords ∧ 0x40#32 ∉ legalWords := by decide

theorem witness_EveryCmdWrite_stays :
    (consuming .frame [.byte 7#8]).seq = .busy ∧
    ((nextOf (step (consuming .frame [.byte 7#8]))).map fun t => t.seq) = some .busy := by decide

theorem witness_StreamCommandsStart :
    ({ State.reset with seq := .fault, err := .malformed, cmd := 6#32 } : State).seq ≠ .busy ∧
    Instr.strip .w2 ≠ .clr ∧ encode (.strip .w2) = .cmd 0x14#32 := by decide

theorem witness_Clr : State.reset.seq ≠ .busy ∧ (busyOn .frame []).seq = .busy := by decide

theorem witness_IllegalWord :
    (writing 0x09#32).script = .regWrite 1#3 0x09#32 :: [] ∧ (writing 0x09#32).seq ≠ .busy ∧
    0x09#32 ∉ legalWords ∧ 0x10#32 ∉ legalWords ∧ 0xFFFFFFFF#32 ∉ legalWords := by decide

theorem witness_WriteWhileBusy :
    ({ busyOn .frame [] with script := [.regWrite 1#3 0#32] } : State).script = .regWrite 1#3 0#32 :: [] ∧
    (busyOn .frame []).seq = .busy := by decide

theorem witness_Reset :
    ({ busyOn .frame [.eos] with script := [.reset], ovf := true } : State).script = .reset :: [] := by decide

theorem witness_TokensStay :
    ({ State.reset with script := [.consume], inq := [.byte 1#8] } : State).script = .consume :: [] ∧
    State.reset.seq ≠ .busy := by decide

theorem witness_OfferAndWithdraw :
    ({ State.reset with script := [.offer 0x1FF#9] } : State).script = .offer 0x1FF#9 :: [] ∧
    ({ State.reset with script := [.discard], inq := [.eos] } : State).script = .discard :: [] := by decide

/-- The tokens of PACK, FRAME, COMPRESS, DECOMPRESS and HIDE: a byte, or END, while BUSY. -/
theorem witness_tokens :
    (busyOn (.pack .w1) [.byte 0xFF#8]).seq = .busy ∧ (busyOn (.pack .w1) [.byte 0xFF#8]).inq = .byte 0xFF#8 :: [] ∧
    (busyOn .frame [.eos]).seq = .busy ∧ (busyOn .frame [.eos]).inq = .eos :: [] := by decide

/-- UNPACK and EXTRACT, on the ends of the alphabet and just outside, with NB at its ends. -/
theorem witness_unpack_symbol :
    (busyOn (.unpack .w2) [.byte 0x1F#8]).inq = .byte 0x1F#8 :: [] ∧ widthBits .w2 ∣ (6#3).toNat ∧
    widthBits .w1 ∣ (7#3).toNat ∧ widthBits .w1 ∣ (0#3).toNat ∧
    (0x1C ≤ (0x1F#8).toNat ∧ (0x1F#8).toNat < 0x1C + 2 ^ widthBits .w2) ∧
    (0x1C ≤ (0x1C#8).toNat ∧ (0x1C#8).toNat < 0x1C + 2 ^ widthBits .w1) := by decide

theorem witness_unpack_noise :
    (busyOn (.unpack .w1) [.byte 0x1E#8]).inq = .byte 0x1E#8 :: [] ∧
    ¬ (0x1C ≤ (0x1E#8).toNat ∧ (0x1E#8).toNat < 0x1C + 2 ^ widthBits .w1) ∧
    ¬ (0x1C ≤ (0x1B#8).toNat ∧ (0x1B#8).toNat < 0x1C + 2 ^ widthBits .w2) ∧
    ¬ (0x1C ≤ (0x20#8).toNat ∧ (0x20#8).toNat < 0x1C + 2 ^ widthBits .w2) := by decide

/-- HIDE with the optional stage at END: MK is 0. -/
theorem witness_hide_end :
    (busyOn (.hide .w2 true) [.eos]).seq = .busy ∧ (busyOn (.hide .w2 true) [.eos]).inq = .eos :: [] ∧
    (busyOn (.hide .w2 true) [.eos]).mkf = false := by decide

theorem witness_BusyCommandsWait :
    (pipelineOf .compress).isSome = true ∧ (busyOn .compress []).seq = .busy ∧ (busyOn .compress []).inq = [] := by
  decide

theorem witness_Symbols :
    (Instr.sym2_11, Width.w2, 3#8, 0x1F#8) ∈ alphabetTable ∧ (busyOn (.unpack .w2) []).seq = .busy ∧
    encode (.unpack .w2) = .cmd (busyOn (.unpack .w2) []).cmd ∧
    widthBits .w2 ∣ ({ busyOn (.unpack .w2) [] with nb := 6#3 } : State).nb.toNat := by decide

theorem witness_StripSymbols :
    (Instr.sym1_0, Width.w1, 0#8, 0x1C#8) ∈ alphabetTable ∧ (busyOn (.strip .w1) []).seq = .busy ∧
    encode (.strip .w1) = .cmd (busyOn (.strip .w1) []).cmd := by decide

theorem witness_ByteRows :
    encode .marker = .byte 0x20#8 ∧ (busyOn .frame []).seq = .busy ∧
    decodeCmd (busyOn .frame []).cmd = .ok .frame ∧ (pipelineOf .frame).isSome = true ∧
    State.reset.seq ≠ .busy := by decide

theorem witness_ByteStageFrame :
    (busyOn (.strip .w1) [.eos]).seq = .busy ∧
    exec (.strip .w1) (busyOn (.strip .w1) [.eos]) =
      .next { busyOn (.strip .w1) [] with seq := .done, outH := [.fin .none] } ∧
    Instr.strip .w1 ∈ [.pack .w1, .unpack .w1, .frame, .strip .w1, .hide .w1 false, .extract .w1 false] ∧
    Instr.strip .w1 ∉ [.unpack .w1, .extract .w1 false] ∧ Instr.strip .w1 ∉ [.frame, .hide .w1 false] := by
  refine ⟨by decide, outcome_of_nextOf _ _ (by decide), by decide, by decide, by decide⟩

/-- EXTRACT with the optional stage: a symbol, where the operation goes on. -/
theorem witness_OptionalStageFrame_symbol :
    (busyOn (.extract .w2 true) [.byte 0x1D#8]).seq = .busy ∧
    exec (.extract .w2 true) (busyOn (.extract .w2 true) [.byte 0x1D#8]) =
      .next { busyOn (.extract .w2 true) [] with acc := 1#8, nb := 2#3 } ∧
    (busyOn (.extract .w2 true) []).seq ≠ .fault ∧ Instr.extract .w2 true ≠ .hide .w2 true := by
  refine ⟨by decide, outcome_of_nextOf _ _ (by decide), by decide, by decide⟩

/-- COMPRESS: END after an overflow, where the operation ends in FAULT. -/
theorem witness_OptionalStageFrame_fault :
    exec .compress { busyOn .compress [.eos] with ovf := true } =
      .next { busyOn .compress [] with seq := .fault, err := .overflow, outH := [.fin .overflow] } :=
  outcome_of_nextOf _ _ (by decide)

theorem witness_ByteRowsFrame :
    encode .sym1_1 = .byte 0x1D#8 ∧
    exec .sym1_1 (busyOn .frame []) =
      .next { busyOn .frame [] with mkf := true, outH := [.byte 0x20#8, .byte 0x1D#8] } ∧
    hasUnpacker (busyOn .frame []) = false ∧ hasStripper (busyOn .frame []) = false ∧
    hasCompressor (busyOn .frame []) = false ∧ hasDecompressor (busyOn .frame []) = false ∧
    hasFramer (busyOn (.unpack .w1) []) = false := by
  refine ⟨by decide, outcome_of_nextOf _ _ (by decide), by decide, by decide, by decide, by decide, by decide⟩

theorem witness_PackOperation :
    encode (.pack .w1) = .cmd 0x01#32 ∧ Ahead 0x01#32 [0x41#8] [] [] (planned (.pack .w1) [0x41#8]) :=
  ⟨by decide, by decide, by decide, by decide⟩

theorem witness_UnpackOperation :
    encode (.unpack .w2) = .cmd 0x12#32 ∧
    Ahead 0x12#32 [0x1D#8, 0x61#8] [] [] (planned (.unpack .w2) [0x1D#8, 0x61#8]) ∧
    [0x1D#8, 0x61#8] = [0x1D#8] ++ [0x61#8] :=
  ⟨by decide, ⟨by decide, by decide, by decide⟩, by decide⟩

theorem witness_FrameOperation :
    encode .frame = .cmd 0x03#32 ∧ Ahead 0x03#32 [] [] [] (planned .frame []) :=
  ⟨by decide, by decide, by decide, by decide⟩

theorem witness_StripOperation :
    encode (.strip .w1) = .cmd 0x04#32 ∧
    Ahead 0x04#32 [0x20#8, 0x20#8] [] [] (planned (.strip .w1) [0x20#8, 0x20#8]) ∧
    [0x20#8, 0x20#8] = [0x20#8] ++ [0x20#8] :=
  ⟨by decide, ⟨by decide, by decide, by decide⟩, by decide⟩

theorem witness_OptionalStageOperations :
    encode .compress = .cmd 0x05#32 ∧ Ahead 0x05#32 [0x41#8] [] [] (planned .compress [0x41#8]) ∧
    encode .decompress = .cmd 0x06#32 ∧ Ahead 0x06#32 [0x5A#8] [] [] (planned .decompress [0x5A#8]) :=
  ⟨by decide, ⟨by decide, by decide, by decide⟩, by decide, ⟨by decide, by decide, by decide⟩⟩

/-- The decompressor's third clause: an input that is some Zc(x), whatever Zc is. -/
theorem witness_OptionalStageOperations_pair :
    Ahead 0x06#32 (Config.params.zc [0x41#8]) [] [] (planned .decompress (Config.params.zc [0x41#8])) :=
  ⟨by decide, (List.append_nil _).symm, (List.append_nil _).symm⟩

theorem witness_HideAndExtractOperations :
    encode (.hide .w1 true) = .cmd 0x27#32 ∧ Ahead 0x27#32 [0x41#8] [] [] (planned (.hide .w1 true) [0x41#8]) ∧
    encode (.extract .w2 false) = .cmd 0x18#32 ∧
    Ahead 0x18#32 [0x1D#8] [] [] (planned (.extract .w2 false) [0x1D#8]) :=
  ⟨by decide, ⟨by decide, by decide, by decide⟩, by decide, ⟨by decide, by decide, by decide⟩⟩

/-- A carrier without alphabet bytes that ends in a space, for HiddenSecretsComeBack, FramingBoundary and
TwoHidesOnOneFile. -/
theorem witness_carrier : ∀ b ∈ [0x61#8, 0x20#8], inCod .w2 b = false := by decide

theorem witness_UnpackInvertsPack :
    kept .w2 [0x61#8, 0x1D#8, 0x1C#8, 0x20#8, 0x1C#8, 0x1D#8] = pack .w2 [0x41#8] ∧ Width.w1 ≠ .w2 := by decide

theorem witness_PackLength : 0x1D#8 ∈ pack .w1 [0x01#8] ∧ pack .w1 [0x01#8] = pack .w1 [0x01#8] := by decide

theorem witness_UnpackLength : 8 ∣ widthBits .w2 * (kept .w2 [0x1C#8, 0x1D#8, 0x61#8, 0x1E#8, 0x1F#8]).length := by
  decide

theorem witness_Noise :
    (busyOn (.unpack .w1) [.byte 0x1F#8]).seq = .busy ∧
    (busyOn (.unpack .w1) [.byte 0x1F#8]).inq = .byte 0x1F#8 :: [] ∧ inCod .w1 0x1F#8 = false ∧
    (∀ b ∈ [0x1E#8, 0x20#8, 0x1B#8], inCod .w1 b = false) := by decide

/-- A clean carrier, and one that stripping twice shortens twice. -/
theorem witness_Strip :
    (∀ b ∈ [0x20#8, 0x61#8], inCod .w1 b = false) ∧ [0x20#8, 0x61#8].getLast? ≠ some 0x20#8 ∧
    0x20#8 ∈ strip .w1 [0x61#8, 0x20#8, 0x20#8] ∧
    residue .w1 [0x61#8, 0x20#8, 0x20#8] = [0x61#8] ++ [0x20#8, 0x20#8] := by decide

/-- A state in the middle of UNPACK.1, with BUSYWR set, that meets the invariant. -/
def midUnpack : State :=
  { consuming (.unpack .w1) [.byte 0x1D#8] with acc := 0x3F#8, nb := 6#3, busywr := true }

theorem witness_invariant : Inv Config.params midUnpack where
  fault_iff_err := by decide
  clear_unless_busy := fun h => absurd rfl h
  busy_stream := by decide
  idle_cmd := by decide
  illegal_cmd := by decide
  malformed_cmd := by decide
  overflow_cmd := by decide
  zbuf_fits := fits_zero _
  ovf_full := fun h => absurd h (by decide)
  acc_below := by decide
  nb_multiple := by decide
  acc_owner := by decide
  sp_owner := by decide
  mkf_owner := by decide
  zbuf_owner := by decide
  sizes_owner := by decide

theorem witness_invariant_step :
    step midUnpack = .next { busyOn (.unpack .w1) [] with acc := 0x7F#8, nb := 7#3, busywr := true } :=
  outcome_of_nextOf _ _ (by decide)

/-- One script for each kind of move, and what the step answers (StateHasNoOtherTransitions, OutStreamsEndOnce). -/
theorem witness_moves :
    (∀ m ∈ [HostMove.reset, .regRead 2#3, .regWrite 0#3 5#32, .regWrite 1#3 0#32, .offer 0#9, .discard, .consume],
      (nextOf (step { busyOn .frame [.byte 7#8] with script := [m] })).isSome = true) ∧
    (∀ m ∈ [HostMove.regWrite 1#3 0#32, .regWrite 1#3 3#32, .regWrite 1#3 9#32, .consume],
      (nextOf (step { State.reset with script := [m] })).isSome = true) ∧
    (nextOf (step (consuming .frame [.eos]))).isSome = true ∧
    (nextOf (step (consuming .frame []))).isSome = true := by decide

theorem witness_FaultEntry :
    ({ consuming .compress [.eos] with ovf := true } : State).script = .consume :: [] ∧
    step { consuming .compress [.eos] with ovf := true } =
      .next { busyOn .compress [] with seq := .fault, err := .overflow, outH := [.fin .overflow] } ∧
    (consuming .compress [.eos]).seq ≠ .fault ∧ ErrCode.overflow ≠ .illegalCmd ∧
    (Inv Config.params midUnpack ∧ midUnpack.seq = .busy) :=
  ⟨by decide, outcome_of_nextOf _ _ (by decide), by decide, by decide, witness_invariant, by decide⟩

theorem witness_NoLookAhead :
    (consuming (.unpack .w2) [.byte 0x1D#8, .eos]).script = .consume :: [] ∧
    (consuming (.unpack .w2) [.byte 0x1D#8, .eos]).seq = .busy ∧
    (consuming (.unpack .w2) [.byte 0x1D#8, .eos]).inq = .byte 0x1D#8 :: [.eos] ∧
    step (consuming (.unpack .w2) [.byte 0x1D#8, .eos]) =
      .next { busyOn (.unpack .w2) [.eos] with acc := 1#8, nb := 2#3 } :=
  ⟨by decide, by decide, by decide, outcome_of_nextOf _ _ (by decide)⟩

/-- A fresh block and one that has faulted, with the same plans. -/
theorem witness_NoTrace :
    (planned .frame [7#8]).seq ≠ .busy ∧
    ({ planned .frame [7#8] with seq := .fault, err := .overflow, cmd := 5#32 } : State).seq ≠ .busy ∧
    (planned .frame [7#8]).script = .regWrite 1#3 3#32 :: [.consume, .consume] ∧
    ({ planned .frame [7#8] with seq := .fault, err := .overflow, cmd := 5#32 } : State).script =
      (planned .frame [7#8]).script := by decide

theorem witness_ControlPort :
    (busyOn (.pack .w1) [.byte 0x41#8]).seq = .busy ∧
    (latchedPipeline (busyOn (.pack .w1) [.byte 0x41#8])).isSome = true ∧
    (∀ m ∈ [HostMove.regWrite 1#3 2#32, .regRead 2#3], isAccess m = true) ∧
    ({ busyOn (.pack .w1) [.byte 0x41#8] with
        script := [.regWrite 1#3 2#32, .regRead 2#3, .consume] } : State).script =
      [.regWrite 1#3 2#32, .regRead 2#3] ++ .consume :: [] := by decide

/-- Two states that differ in BUSYWR and the read values alone, at a hand-over. -/
theorem witness_SameData :
    SameData (consuming .frame [.eos]) { consuming .frame [.eos] with busywr := true, readH := [(2#3, 1#32)] } ∧
    (nextOf (step (consuming .frame [.eos]))).isSome = true := by
  unfold SameData
  decide

end Sys2Proof.Tests
end

section
/-! PROOFS. The words of the commands: a legal word is exactly the word of the command it decodes to. -/

namespace Sys2Proof

open Sys2Proof.Machine Sys2Proof.Claims

theorem decodePlain_ok {f : CmdFields} {i j : Instr} (h : decodePlain f i = .ok j) :
    j = i ∧ f.w = 0#1 ∧ f.ce = 0#1 := by
  unfold decodePlain at h
  split at h
  next hw =>
    split at h
    next hc =>
      cases h
      exact ⟨rfl, hw, hc⟩
    next => cases h
  next => cases h

theorem decodeWidth_ok {f : CmdFields} {i : Width → Instr} {j : Instr} (h : decodeWidth f i = .ok j) :
    j = i (widthOfBit f.w) ∧ f.ce = 0#1 := by
  unfold decodeWidth at h
  split at h
  next hc =>
    cases h
    exact ⟨rfl, hc⟩
  next => cases h

theorem decodeFull_ok {f : CmdFields} {i : Width → Bool → Instr} {j : Instr} (h : decodeFull f i = .ok j) :
    j = i (widthOfBit f.w) (decide (f.ce = 1#1)) :=
  (Except.ok.inj h).symm

/-- The word of a decoded command is its encoding (30_encoding.md R92, R95). -/
theorem encode_of_decodeCmd (v : Word) (i : Instr) (h : decodeCmd v = .ok i) : encode i = .cmd v := by
  rw [← wordOf_fieldsOf v]
  unfold decodeCmd at h
  generalize fieldsOf v = f at h ⊢
  simp only at h
  split at h
  next hz =>
    have word {k : Nat} (hk : f.op.toNat = k) : wordOf f = cmdWord (BitVec.ofNat 4 k) f.w f.ce := by
      rw [cmdWord, ← hz, ← hk, BitVec.ofNat_toNat, BitVec.setWidth_eq]
    split at h
    case h_1 hk | h_4 hk | h_6 hk | h_7 hk =>
      obtain ⟨rfl, hw, hc⟩ := decodePlain_ok h
      rw [word hk, hw, hc]
      rfl
    case h_2 hk | h_3 hk | h_5 hk =>
      obtain ⟨rfl, hc⟩ := decodeWidth_ok h
      rw [word hk, hc, encode, bitOfWidth_widthOfBit]
    case h_8 hk | h_9 hk =>
      cases decodeFull_ok h
      rw [word hk, encode, bitOfWidth_widthOfBit, bitOfCe_decide]
    case h_10 => cases h
  next => cases h

/-- A word that some command is encoded to decodes to that command. -/
theorem decodeCmd_of_encode (i : Instr) (v : Word) (h : encode i = .cmd v) : decodeCmd v = .ok i := by
  cases i <;> cases h
  case clr => exact decodeCmd_clr
  case pack w => exact decodeCmd_pack w
  case unpack w => exact decodeCmd_unpack w
  case frame => exact decodeCmd_frame
  case strip w => exact decodeCmd_strip w
  case compress => exact decodeCmd_compress
  case decompress => exact decodeCmd_decompress
  case hide w ce => exact decodeCmd_hide w ce
  case extract w ce => exact decodeCmd_extract w ce

theorem mem_legalWords_of_decodeCmd (v : Word) (i : Instr) (h : decodeCmd v = .ok i) : v ∈ legalWords := by
  have he := encode_of_decodeCmd v i h
  cases i <;> simp only [encode, Code.cmd.injEq, reduceCtorEq] at he <;> subst he
  case pack w | unpack w | strip w => cases w <;> decide
  case hide w ce | extract w ce => cases w <;> cases ce <;> decide
  all_goals decide

theorem not_mem_legalWords_of_decodeCmd (v : Word) (e : Reject) (h : decodeCmd v = .error e) : v ∉ legalWords := by
  have legal : (legalWords.all fun u => (decodeCmd u).isOk) = true := by decide
  intro hv
  have := List.all_eq_true.mp legal v hv
  rw [h] at this
  cases this

/-- The word 0 is CLR and no other word is (30_encoding.md R92). -/
theorem decodeCmd_zero : decodeCmd 0#32 = .ok .clr := by decide

theorem eq_zero_of_decodeCmd_clr (v : Word) (h : decodeCmd v = .ok .clr) : v = 0#32 := by
  have he := encode_of_decodeCmd v .clr h
  cases he
  decide

theorem mem_legalWords_iff (v : Word) : v ∈ legalWords ↔ ∃ i, decodeCmd v = .ok i := by
  cases hd : decodeCmd v with
  | ok i => exact iff_of_true (mem_legalWords_of_decodeCmd v i hd) ⟨i, rfl⟩
  | error e => exact iff_of_false (not_mem_legalWords_of_decodeCmd v e hd) nofun

/-- A decoded command other than CLR is a stream command. -/
theorem pipelineOf_of_decodeCmd (v : Word) (i : Instr) (h : decodeCmd v = .ok i) (hi : i ≠ .clr) :
    ∃ stages, pipelineOf i = some stages := by
  have he := encode_of_decodeCmd v i h
  cases i
  case clr => exact absurd rfl hi
  case sym1_0 | sym1_1 | sym2_00 | sym2_01 | sym2_10 | sym2_11 | marker => cases he
  all_goals exact ⟨_, rfl⟩

end Sys2Proof
end

section
/-! PROOFS. A write to CMD and a step as the written claims see them. -/

namespace Sys2Proof.Machine

open Sys2Proof.Claims

/-- What a write of `v` to CMD makes of `s` while STATE is not BUSY (10_state.md R24, R27, R31). -/
def written (v : Word) (s : State) : State :=
  if v = 0#32 then started v .idle .none s
  else if v ∈ legalWords then started v .busy .none s
  else started v .fault .illegalCmd s

theorem acceptCommand_eq_started (v : Word) (s : State) : acceptCommand v s = started v .busy .none s := rfl

theorem returnToIdle_eq_started (v : Word) (s : State) : returnToIdle v s = started v .idle .none s := rfl

theorem illegalCommand_eq_started (v : Word) (s : State) :
    illegalCommand v s = started v .fault .illegalCmd s := rfl

theorem execClr_free (s : State) (h : s.seq ≠ .busy) : exec .clr s = .next (started 0#32 .idle .none s) := by
  show execClr s = _
  unfold execClr
  cases hs : s.seq
  case busy => exact absurd hs h
  all_goals rfl

/-- A stream command that is not BUSY starts, with its own word latched. -/
theorem exec_stream_free (i : Instr) (v : Word) (s : State) (h : s.seq ≠ .busy) (hi : i ≠ .clr)
    (he : encode i = .cmd v) : exec i s = .next (started v .busy .none s) := by
  obtain ⟨stages, hp⟩ := pipelineOf_of_decodeCmd v i (decodeCmd_of_encode i v he) hi
  obtain ⟨u, hu, hx⟩ := exec_stream i stages hp
  cases he.symm.trans hu
  rw [hx, streamCommand_start v stages s h, acceptCommand_eq_started]

/-- Every word can be written while STATE is not BUSY, and what it makes depends on its legality alone. -/
theorem writeCmd_free (v : Word) (s : State) (h : s.seq ≠ .busy) : writeCmd v s = .next (written v s) := by
  unfold written
  cases hd : decodeCmd v with
  | error e =>
    have hz : v ≠ 0#32 := by
      rintro rfl
      cases decodeCmd_zero.symm.trans hd
    rw [writeCmd_illegal v e s h hd, if_neg hz, if_neg (not_mem_legalWords_of_decodeCmd v e hd),
      illegalCommand_eq_started]
  | ok i =>
    rw [writeCmd_legal v i s h hd]
    by_cases hi : i = .clr
    · subst hi
      rw [if_pos (eq_zero_of_decodeCmd_clr v hd), eq_zero_of_decodeCmd_clr v hd, execClr_free s h]
    · have hz : v ≠ 0#32 := by
        rintro rfl
        cases decodeCmd_zero.symm.trans hd
        exact hi rfl
      rw [if_neg hz, if_pos (mem_legalWords_of_decodeCmd v i hd),
        exec_stream_free i v s h hi (encode_of_decodeCmd v i hd)]

/-- The latched stream command is what runs. -/
theorem runLatched_command (s : State) (i : Instr) (hd : decodeCmd s.cmd = .ok i)
    (hp : (pipelineOf i).isSome = true) : runLatched s = exec i s := by
  obtain ⟨stages, hs⟩ := Option.isSome_iff_exists.mp hp
  unfold runLatched
  simp only [hd, hs]

end Sys2Proof.Machine
end

section
/-! PROOFS. The control port and reset (10_state.md R27, R31, R34, R38). -/

namespace Sys2Proof.Machine

open Sys2Proof.Claims

/-- Settles O7, a clause for each kind of move that runs an instruction. -/
theorem stepRunsTheDecodedInstruction : Obligations.StepRunsTheDecodedInstruction := by
  refine ⟨?_, ?_, ?_, ?_⟩
  · intro s v rest i hm hb hd
    rw [step_move s _ rest hm]
    exact writeCmd_legal v i { s with script := rest } hb hd
  · intro s b rest q i hm hb hq hd
    rw [step_move s _ rest hm]
    exact consumeNext_row { s with script := rest } b q i hb hq hd
  · intro s b rest q e i hm hb hq hd hc hp
    rw [step_move s _ rest hm]
    exact (consumeNext_plain { s with script := rest } b q e hb hq hd).trans (runLatched_command _ i hc hp)
  · intro s rest q i hm hb hq hc hp
    rw [step_move s _ rest hm]
    exact (consumeNext_eos { s with script := rest } q hb hq).trans (runLatched_command _ i hc hp)

/-- Settles O11: outside BUSY a stream command is started. -/
theorem streamCommandsStartFresh : Obligations.StreamCommandsStartFresh :=
  fun s i v hb hi he => exec_stream_free i v s hb hi he

/-- Settles O14: while BUSY the written word is not decoded. -/
theorem writeWhileBusyOnlySetsBusyWr : Obligations.WriteWhileBusyOnlySetsBusyWr := by
  intro s v rest hm hb
  rw [step_move s _ rest hm]
  exact writeCmd_busy v { s with script := rest } hb

/-- Settles O15: Reset is R27's initial state with CMD 0 and STATE IDLE. -/
theorem resetSetsEveryItem : Obligations.ResetSetsEveryItem := by
  refine ⟨fun s rest hm => ⟨?_, rfl, rfl⟩, rfl⟩
  rw [step_move s _ rest hm]
  rfl

end Sys2Proof.Machine
end

section
/-! PROOFS. What a Consume step does to the registers, by the stages its pipeline has, said once for all pipelines:
which registers it leaves alone, what a byte does to the accumulator and to the buffer, and how END ends it. -/

namespace Sys2Proof.Machine

/-- The pipelines of 43_composite_control.md R170, one case for each; EXTRACT without the optional stage has that
of UNPACK (R173). -/
inductive IsPipeline : List Stage → Prop
  | pack (w : Width) : IsPipeline (packPipeline w)
  | unpack (w : Width) : IsPipeline (unpackPipeline w)
  | frame : IsPipeline framePipeline
  | strip (w : Width) : IsPipeline (stripPipeline w)
  | compress : IsPipeline compressPipeline
  | decompress : IsPipeline decompressPipeline
  | hide (w : Width) : IsPipeline (hidePipeline w false)
  | hidez (w : Width) : IsPipeline (hidePipeline w true)
  | extractz (w : Width) : IsPipeline (extractPipeline w true)

theorem isPipeline_of_pipelineOf (i : Instr) (stages : List Stage) (h : pipelineOf i = some stages) :
    IsPipeline stages := by
  rcases pipelineOf_cases i stages h with ⟨w, -, rfl⟩ | ⟨w, -, rfl⟩ | ⟨-, rfl⟩ | ⟨w, -, rfl⟩ | ⟨-, rfl⟩ |
    ⟨-, rfl⟩ | ⟨w, -, rfl⟩ | ⟨w, -, rfl⟩ | ⟨w, -, rfl⟩ | ⟨w, -, rfl⟩
  · exact .pack w
  · exact .unpack w
  · exact .frame
  · exact .strip w
  · exact .compress
  · exact .decompress
  · exact .hide w
  · exact .hidez w
  · exact .unpack w
  · exact .extractz w

/-- What a Consume step that takes no fault leaves of `s`, if it consumes `tok` and its pipeline has the stages
`stages`: ERR, the lengths but at a compressor's END, each working register whose stage is not there; the OUT history
only grows, and where bytes are buffered not before END (10_state.md R25, R26, R28, R33, R40). -/
structure KeepsOthers (stages : List Stage) (tok : Token) (s t : State) : Prop where
  err : t.err = s.err
  sizes : tok ≠ .eos ∨ .compressor ∉ stages → t.zlenIn = s.zlenIn ∧ t.zlenOut = s.zlenOut
  acc : (∀ w, .unpacker w ∉ stages) → t.acc = s.acc ∧ t.nb = s.nb
  sp : (∀ w, .stripper w ∉ stages) → t.sp = s.sp
  mkf : .framer ∉ stages → t.mkf = s.mkf
  buffer : .compressor ∉ stages → .decompressor ∉ stages → t.zbuf = s.zbuf ∧ t.ovf = s.ovf
  outH : ∃ o, t.outH = s.outH ++ o
  silent : tok ≠ .eos → .compressor ∈ stages ∨ .decompressor ∈ stages → t.outH = s.outH ∧ t.mkf = s.mkf

theorem KeepsOthers.refl (stages : List Stage) (tok : Token) (s : State) : KeepsOthers stages tok s s := by
  constructor <;> simp

/-- What a successful END leaves besides: DONE, and the working registers of the stages at their reset values
(43_composite_control.md R175). -/
structure EndsClean (stages : List Stage) (t : State) : Prop where
  seq : t.seq = .done
  acc : ∀ w, .unpacker w ∈ stages → t.acc = 0#8 ∧ t.nb = 0#3
  sp : ∀ w, .stripper w ∈ stages → t.sp = false
  mkf : .framer ∈ stages → t.mkf = false
  buffer : .compressor ∈ stages ∨ .decompressor ∈ stages → t.zbuf = [] ∧ t.ovf = false

/-- The codes of the faults a pipeline can raise: OVERFLOW by an optional stage, MALFORMED by a decompressor
(60_exceptions.md R190). -/
def Raises (stages : List Stage) (c : ErrCode) : Prop :=
  (c = .malformed ∧ .decompressor ∈ stages) ∨
  (c = .overflow ∧ (.compressor ∈ stages ∨ .decompressor ∈ stages))

variable (P : Params)

/-! A byte -/

theorem zStore_frame (b : Byte) (s : State) :
    zStore P b s = { s with zbuf := (zStore P b s).zbuf, ovf := (zStore P b s).ovf } := by
  unfold zStore
  split <;> rfl

theorem consume_byte_frame (stages : List Stage) (h : IsPipeline stages) (b : Byte) (s : State) :
    KeepsOthers stages (.byte b) s (consumeThrough P stages (.byte b) s) := by
  cases h with
  | pack w =>
    rw [consume_pack_byte]
    constructor <;> simp [packPipeline]
  | unpack w =>
    rw [consume_unpack_byte]
    split
    · split <;> constructor <;> simp [unpackPipeline]
    · exact .refl _ _ s
  | frame =>
    rw [consume_frame_byte]
    constructor <;> simp [framePipeline]
  | strip w =>
    rw [consume_strip_byte]
    split
    · exact .refl _ _ s
    · split <;> constructor <;> simp [stripPipeline]
  | compress =>
    rw [consume_compress_byte, zStore_frame]
    constructor <;> simp [compressPipeline]
  | decompress =>
    rw [consume_decompress_byte, zStore_frame]
    constructor <;> simp [decompressPipeline]
  | hide w =>
    rw [consume_hide_byte]
    constructor <;> simp [hidePipeline]
  | hidez w =>
    rw [consume_hidez_byte, zStore_frame]
    constructor <;> simp [hidePipeline]
  | extractz w =>
    rw [consume_extractz_byte, zStore_frame]
    split
    · split <;> constructor <;> simp [extractPipeline]
    · exact .refl _ _ s

/-! END -/

/-- A decompressor's END: it faults, or Zd's result goes to OUT and the operation is done (41_compressor.md R134). -/
theorem consume_decompress_eos_cases (s : State) :
    (∃ c, (c = .malformed ∨ c = .overflow) ∧ consumeThrough P decompressPipeline .eos s = enterFault c s) ∨
    (s.ovf = false ∧ ∃ x : Bytes, consumeThrough P decompressPipeline .eos s =
      finish { s with zbuf := [], outH := s.outH ++ x.map .byte }) := by
  rw [consume_decompress_eos]
  cases ho : s.ovf with
  | true => exact .inl ⟨.overflow, .inr rfl, rfl⟩
  | false =>
    cases hz : P.zd s.zbuf with
    | none => exact .inl ⟨.malformed, .inl rfl, rfl⟩
    | some x =>
      cases hf : P.fits x.length with
      | true => exact .inr ⟨rfl, x, by simp [hf]⟩
      | false => exact .inl ⟨.overflow, .inr rfl, by simp [hf]⟩

/-- END of any pipeline: fault entry, or the end of the operation (43_composite_control.md R175,
60_exceptions.md R196). -/
theorem consume_eos_cases (stages : List Stage) (h : IsPipeline stages) (s : State) :
    (∃ c, Raises stages c ∧ consumeThrough P stages .eos s = enterFault c s) ∨
    (KeepsOthers stages .eos s (consumeThrough P stages .eos s) ∧
      EndsClean stages (consumeThrough P stages .eos s)) := by
  cases h with
  | pack w =>
    rw [consume_pack_eos]
    exact .inr (by constructor <;> constructor <;> simp [packPipeline])
  | unpack w =>
    rw [consume_unpack_eos]
    exact .inr (by constructor <;> constructor <;> simp [unpackPipeline])
  | frame =>
    rw [consume_frame_eos]
    exact .inr (by constructor <;> constructor <;> simp [framePipeline])
  | strip w =>
    rw [consume_strip_eos]
    exact .inr (by constructor <;> constructor <;> simp [stripPipeline])
  | hide w =>
    rw [consume_hide_eos]
    exact .inr (by constructor <;> constructor <;> simp [hidePipeline])
  | compress =>
    rw [consume_compress_eos]
    cases ho : s.ovf with
    | true => exact .inl ⟨.overflow, .inr ⟨rfl, .inl (by simp [compressPipeline])⟩, rfl⟩
    | false => exact .inr (by constructor <;> constructor <;> simp [compressPipeline, ho])
  | hidez w =>
    rw [consume_hidez_eos]
    cases ho : s.ovf with
    | true => exact .inl ⟨.overflow, .inr ⟨rfl, .inl (by simp [hidePipeline])⟩, rfl⟩
    | false => exact .inr (by constructor <;> constructor <;> simp [hidePipeline, ho])
  | decompress =>
    rcases consume_decompress_eos_cases P s with ⟨c, hc, hx⟩ | ⟨ho, x, hx⟩ <;> rw [hx]
    · refine .inl ⟨c, ?_, rfl⟩
      simpa [Raises, decompressPipeline] using hc
    · exact .inr (by constructor <;> constructor <;> simp [decompressPipeline, ho])
  | extractz w =>
    rw [consume_extractz_eos]
    rcases consume_decompress_eos_cases P { s with acc := 0#8, nb := 0#3 } with ⟨c, hc, hx⟩ | ⟨ho, x, hx⟩ <;>
      rw [hx]
    · refine .inl ⟨c, ?_, rfl⟩
      simpa [Raises, extractPipeline] using hc
    · have hs : s.ovf = false := ho
      exact .inr (by constructor <;> constructor <;> simp [extractPipeline, hs])

end Sys2Proof.Machine
end

section
/-! PROOFS. The frames of the instructions (10_state.md R24 to R26, R28, R33, R35). -/

namespace Sys2Proof.Machine

/-- Whether registers are kept does not depend on the tokens on offer. -/
theorem KeepsOthers.of_inq {stages : List Stage} {tok : Token} {q : List Token} {s t : State}
    (h : KeepsOthers stages tok { s with inq := q } t) : KeepsOthers stages tok s t :=
  ⟨h.err, h.sizes, h.acc, h.sp, h.mkf, h.buffer, h.outH, h.silent⟩

/-- A stream command that is BUSY waits with no token on offer, or takes the next one through its pipeline. -/
theorem exec_stream_busy_cases (i : Instr) (stages : List Stage) (hp : pipelineOf i = some stages) (s t : State)
    (hb : s.seq = .busy) (hx : exec i s = .next t) :
    (s.inq = [] ∧ t = s) ∨
    (∃ tok r, s.inq = tok :: r ∧ t = consumeThrough Config.params stages tok { s with inq := r }) := by
  obtain ⟨v, -, he⟩ := exec_stream i stages hp
  rw [he] at hx
  rcases streamCommand_cases v stages s t hx with ⟨hf, -⟩ | ⟨-, h⟩ | ⟨-, h⟩
  · exact absurd hb hf
  · exact .inr h
  · exact .inl h

/-- What a stream command never touches while BUSY, and that at most one token leaves IN. -/
theorem exec_stream_busy_keeps (i : Instr) (stages : List Stage) (hp : pipelineOf i = some stages) (s t : State)
    (hb : s.seq = .busy) (hx : exec i s = .next t) :
    t.cmd = s.cmd ∧ t.busywr = s.busywr ∧ t.inq = s.inq.drop 1 ∧ t.script = s.script ∧ t.readH = s.readH := by
  rcases exec_stream_busy_cases i stages hp s t hb hx with ⟨hq, rfl⟩ | ⟨tok, r, hq, rfl⟩
  · simp [hq]
  · rw [hq]
    exact consume_keeps Config.params { s with inq := r } i stages hp tok

/-- What a stream command does to the registers while BUSY: STATE stays and other stages' registers stay, END takes a
fault, or END is the end of the operation. -/
theorem exec_stream_busy_frame (i : Instr) (stages : List Stage) (hp : pipelineOf i = some stages) (s t : State)
    (hb : s.seq = .busy) (hx : exec i s = .next t) :
    (t.seq = .busy ∧ ∃ b, KeepsOthers stages (.byte b) s t) ∨
    (∃ c q, Raises stages c ∧ t = enterFault c { s with inq := q }) ∨
    (t.seq = .done ∧ KeepsOthers stages .eos s t) := by
  have hg := isPipeline_of_pipelineOf i stages hp
  rcases exec_stream_busy_cases i stages hp s t hb hx with ⟨-, rfl⟩ | ⟨tok, q, -, rfl⟩
  · exact .inl ⟨hb, 0#8, .refl _ _ _⟩
  · cases tok with
    | byte b =>
      exact .inl ⟨(consume_byte_seq Config.params _ b i stages hp).trans hb, b,
        (consume_byte_frame Config.params stages hg b _).of_inq⟩
    | eos =>
      rcases consume_eos_cases Config.params stages hg { s with inq := q } with ⟨c, hc, h⟩ | ⟨h, hd⟩
      · exact .inr (.inl ⟨c, q, hc, h⟩)
      · exact .inr (.inr ⟨hd.seq, h.of_inq⟩)

/-- A stream command without an optional stage takes no fault, so it keeps other stages' registers on every token. -/
theorem exec_byteStage_frame (i : Instr) (stages : List Stage) (hp : pipelineOf i = some stages)
    (hc : .compressor ∉ stages) (hd : .decompressor ∉ stages) (s t : State) (hb : s.seq = .busy)
    (hx : exec i s = .next t) : ∃ tok, KeepsOthers stages tok s t := by
  rcases exec_stream_busy_frame i stages hp s t hb hx with ⟨-, b, h⟩ | ⟨c, q, hr, -⟩ | ⟨-, h⟩
  · exact ⟨_, h⟩
  · rcases hr with ⟨-, hm⟩ | ⟨-, hm | hm⟩ <;> contradiction
  · exact ⟨_, h⟩

/-- The stages that PACK, UNPACK, FRAME, STRIP, and HIDE and EXTRACT without the optional stage do not have
(43_composite_control.md R170). -/
theorem byteStage_stages (i : Instr) (w : Width)
    (hi : i ∈ [.pack w, .unpack w, .frame, .strip w, .hide w false, .extract w false]) :
    ∃ stages, pipelineOf i = some stages ∧ .compressor ∉ stages ∧ .decompressor ∉ stages ∧
      (i ∉ [.unpack w, .extract w false] → ∀ v, .unpacker v ∉ stages) ∧
      (i ≠ .strip w → ∀ v, .stripper v ∉ stages) ∧ (i ∉ [.frame, .hide w false] → .framer ∉ stages) := by
  simp only [List.mem_cons, List.not_mem_nil, or_false] at hi
  rcases hi with rfl | rfl | rfl | rfl | rfl | rfl <;> refine ⟨_, rfl, ?_⟩ <;>
    simp [packPipeline, unpackPipeline, framePipeline, stripPipeline, hidePipeline, extractPipeline]

/-- Settles O30: these commands have no optional stage, so no step of theirs takes a fault. -/
theorem byteStageCommandsFrame : Obligations.ByteStageCommandsFrame := by
  intro s t i w hb hx hi
  obtain ⟨stages, hp, hc, hd, hu, hs, hf⟩ := byteStage_stages i w hi
  obtain ⟨hcmd, hbw, hq, hm, hr⟩ := exec_stream_busy_keeps i stages hp s t hb hx
  obtain ⟨tok, h⟩ := exec_byteStage_frame i stages hp hc hd s t hb hx
  obtain ⟨hzi, hzo⟩ := h.sizes (.inr hc)
  obtain ⟨hzb, hov⟩ := h.buffer hc hd
  exact ⟨hcmd, hbw, h.err, hzi, hzo, hov, hzb, hm, hr, hq, h.outH, fun hi => h.acc (hu hi), fun hi => h.sp (hs hi),
    fun hi => h.mkf (hf hi)⟩

/-- The stages of COMPRESS, DECOMPRESS, and HIDE and EXTRACT with the optional stage (43_composite_control.md
R170). -/
theorem optionalStage_stages (i : Instr) (w : Width)
    (hi : i ∈ [.compress, .decompress, .hide w true, .extract w true]) :
    ∃ stages, pipelineOf i = some stages ∧ (.compressor ∈ stages ∨ .decompressor ∈ stages) ∧
      (i ∉ [.compress, .hide w true] → .compressor ∉ stages) ∧ (∀ v, .stripper v ∉ stages) ∧
      (i ≠ .extract w true → ∀ v, .unpacker v ∉ stages) ∧ (i ≠ .hide w true → .framer ∉ stages) := by
  simp only [List.mem_cons, List.not_mem_nil, or_false] at hi
  rcases hi with rfl | rfl | rfl | rfl <;> refine ⟨_, rfl, ?_⟩ <;>
    simp [compressPipeline, decompressPipeline, hidePipeline, extractPipeline]

/-- Settles O31: a byte is buffered, and END takes a fault or is the end of the operation. -/
theorem optionalStageCommandsFrame : Obligations.OptionalStageCommandsFrame := by
  intro s t i w hb hx hi
  obtain ⟨stages, hp, hz, hc, hs, hu, hf⟩ := optionalStage_stages i w hi
  obtain ⟨hcmd, hbw, hq, hm, hr⟩ := exec_stream_busy_keeps i stages hp s t hb hx
  refine ⟨hcmd, hbw, hm, hr, hq, ?_⟩
  rcases exec_stream_busy_frame i stages hp s t hb hx with ⟨-, b, h⟩ | ⟨c, q, -, rfl⟩ | ⟨hd, h⟩
  · have hn : Token.byte b ≠ .eos := nofun
    exact ⟨h.outH, fun _ => h.sizes (.inl hn), fun _ =>
      ⟨h.err, h.sp hs, fun hi => h.acc (hu hi), fun hi => h.mkf (hf hi), fun _ => h.silent hn hz⟩⟩
  · exact ⟨⟨_, rfl⟩, fun _ => ⟨rfl, rfl⟩, absurd rfl⟩
  · refine ⟨h.outH, fun hi => h.sizes (.inr (hc (hi.resolve_left (absurd hd)))), fun _ =>
      ⟨h.err, h.sp hs, fun hi => h.acc (hu hi), fun hi => h.mkf (hf hi), fun hy => ?_⟩⟩
    cases hd.symm.trans hy

/-! The stages of the latched command -/

theorem latchedStages_eq (s : State) (stages : List Stage) (h : latchedPipeline s = some stages) :
    latchedStages s = stages := by
  simp [latchedStages, h]

theorem hasUnpacker_eq_false_iff (s : State) :
    hasUnpacker s = false ↔ ∀ w, .unpacker w ∉ latchedStages s := by
  simp only [hasUnpacker, Bool.or_eq_false_iff, decide_eq_false_iff_not]
  exact ⟨fun ⟨h1, h2⟩ w => by cases w <;> assumption, fun h => ⟨h .w1, h .w2⟩⟩

theorem hasStripper_eq_false_iff (s : State) :
    hasStripper s = false ↔ ∀ w, .stripper w ∉ latchedStages s := by
  simp only [hasStripper, Bool.or_eq_false_iff, decide_eq_false_iff_not]
  exact ⟨fun ⟨h1, h2⟩ w => by cases w <;> assumption, fun h => ⟨h .w1, h .w2⟩⟩

theorem hasFramer_eq_false_iff (s : State) : hasFramer s = false ↔ .framer ∉ latchedStages s := by
  simp [hasFramer]

theorem hasCompressor_eq_true_iff (s : State) : hasCompressor s = true ↔ .compressor ∈ latchedStages s := by
  simp [hasCompressor]

theorem hasCompressor_eq_false_iff (s : State) : hasCompressor s = false ↔ .compressor ∉ latchedStages s := by
  simp [hasCompressor]

theorem hasDecompressor_eq_true_iff (s : State) : hasDecompressor s = true ↔ .decompressor ∈ latchedStages s := by
  simp [hasDecompressor]

theorem hasDecompressor_eq_false_iff (s : State) :
    hasDecompressor s = false ↔ .decompressor ∉ latchedStages s := by
  simp [hasDecompressor]

/-- A byte row is the streaming of its byte. -/
theorem exec_row (i : Instr) (b : Byte) (h : encode i = .byte b) (s : State) : exec i s = streamByte b s := by
  cases i <;> cases h <;> rfl

/-- Settles O32: while BUSY a byte row is the latched command's Consume step on its byte. -/
theorem byteRowsFrame : Obligations.ByteRowsFrame := by
  intro s t i b he hx
  rw [exec_row i b he] at hx
  by_cases hb : s.seq = .busy
  · cases hp : latchedPipeline s with
    | none =>
      rw [streamByte_noCommand b s hb hp] at hx
      cases hx
    | some stages =>
      rw [streamByte_busy b s stages hb hp] at hx
      cases hx
      obtain ⟨j, -, hj⟩ := latchedPipeline_some s stages hp
      obtain ⟨hcmd, hbw, hq, hm, hr⟩ := consume_keeps Config.params s j stages hj (.byte b)
      have h := consume_byte_frame Config.params stages (isPipeline_of_pipelineOf j stages hj) b s
      obtain ⟨hzi, hzo⟩ := h.sizes (.inl nofun)
      simp only [hasUnpacker_eq_false_iff, hasStripper_eq_false_iff, hasFramer_eq_false_iff,
        hasCompressor_eq_false_iff, hasDecompressor_eq_false_iff, latchedStages_eq s stages hp]
      exact ⟨hcmd, hbw, h.err, consume_byte_seq Config.params s b j stages hj, hzi, hzo, hm, hr, h.outH, fun _ => hq,
        fun hu _ => h.acc hu, fun hs _ => h.sp hs, fun hf _ => h.mkf hf, fun hc hd _ => h.buffer hc hd,
        fun hn => absurd hb hn⟩
  · rw [streamByte_free b s hb] at hx
    cases hx
    simp [hb]

end Sys2Proof.Machine
end

section
/-! PROOFS. The working registers in the middle of an operation: the accumulator and the buffer (10_state.md R25,
R28). -/

namespace Sys2Proof.Machine

/-- ACC holds NB bits, a whole number of groups of width `w` (10_state.md R25). -/
structure AccBounded (w : Width) (s : State) : Prop where
  below : s.acc.toNat < 2 ^ s.nb.toNat
  multiple : widthBits w ∣ s.nb.toNat

/-- ZBUF is within ZBUF_CAP, and OVF is set only when it is full (10_state.md R28). -/
structure BufferBounded (P : Params) (s : State) : Prop where
  fits : P.fits s.zbuf.length = true
  full : s.ovf = true → P.cap = some s.zbuf.length

/-- NB after one more group, where that does not complete a byte: no bit is lost (log 14). -/
theorem nb_add_width (w : Width) (n : BitVec 3) (hw : widthBits w ∣ n.toNat)
    (hn : n.setWidth 4 + BitVec.ofNat 4 (widthBits w) ≠ 8#4) :
    ((n.setWidth 4 + BitVec.ofNat 4 (widthBits w)).setWidth 3).toNat = n.toNat + widthBits w := by
  revert n
  cases w <;> decide

/-- Shifting a w-bit group into NB bits gives NB + w bits. -/
theorem shiftIn_lt (w : Width) (a g : Byte) (n : Nat) (ha : a.toNat < 2 ^ n) (hg : g.toNat < 2 ^ widthBits w) :
    ((a <<< widthBits w) ||| g).toNat < 2 ^ (n + widthBits w) := by
  rw [BitVec.toNat_or]
  apply Nat.or_lt_two_pow
  · rw [BitVec.toNat_shiftLeft, Nat.shiftLeft_eq, Nat.pow_add]
    exact (Nat.mod_le _ _).trans_lt (Nat.mul_lt_mul_of_pos_right ha (Nat.two_pow_pos _))
  · exact hg.trans_le (Nat.pow_le_pow_right (by decide) (Nat.le_add_left _ _))

theorem accBounded_zero (w : Width) (s : State) (ha : s.acc = 0#8) (hn : s.nb = 0#3) : AccBounded w s := by
  constructor <;> simp [ha, hn]

/-- One more group keeps the accumulator's bounds (40_pack_unpack.md R116). -/
theorem accBounded_shiftIn (w : Width) (b : Byte) (s : State) (h : AccBounded w s) (hc : inCod w b = true)
    (hn : s.nb.setWidth 4 + BitVec.ofNat 4 (widthBits w) ≠ 8#4) :
    AccBounded w { s with
      acc := (s.acc <<< widthBits w) ||| groupOf b
      nb := (s.nb.setWidth 4 + BitVec.ofNat 4 (widthBits w)).setWidth 3 } := by
  have hnb := nb_add_width w s.nb h.multiple hn
  constructor
  · simp only [hnb]
    exact shiftIn_lt w s.acc (groupOf b) _ h.below (groupOf_lt w b hc)
  · simp only [hnb]
    exact Nat.dvd_add h.multiple (Nat.dvd_refl _)

variable (P : Params)

theorem consume_unpack_byte_accBounded (w : Width) (b : Byte) (s : State) (hs : AccBounded w s) :
    AccBounded w (consumeThrough P (unpackPipeline w) (.byte b) s) := by
  rw [consume_unpack_byte]
  split
  next hc =>
    split
    next => exact accBounded_zero w _ rfl rfl
    next hn => exact accBounded_shiftIn w b s hs hc hn
  next => exact hs

/-- The unpacker does the same to ACC and NB whatever stage follows it. -/
theorem consume_extractz_byte_acc (w : Width) (b : Byte) (s : State) :
    (consumeThrough P (extractPipeline w true) (.byte b) s).acc =
      (consumeThrough P (unpackPipeline w) (.byte b) s).acc ∧
    (consumeThrough P (extractPipeline w true) (.byte b) s).nb =
      (consumeThrough P (unpackPipeline w) (.byte b) s).nb := by
  rw [consume_extractz_byte, consume_unpack_byte]
  split
  · split <;> exact ⟨rfl, rfl⟩
  · exact ⟨rfl, rfl⟩

/-- Whether the accumulator is within its bounds is a matter of ACC and NB alone. -/
theorem AccBounded.of_eq {w : Width} {s t : State} (h : AccBounded w s) (he : t.acc = s.acc ∧ t.nb = s.nb) :
    AccBounded w t := by
  obtain ⟨ha, hn⟩ := he
  exact ⟨by rw [ha, hn]; exact h.below, by rw [hn]; exact h.multiple⟩

/-- A byte keeps the accumulator's bounds, whatever the pipeline, if it is of the pipeline's width. -/
theorem consume_byte_accBounded (stages : List Stage) (h : IsPipeline stages) (b : Byte) (s : State) (v : Width)
    (hv : ∀ w, .unpacker w ∈ stages → w = v) (hs : AccBounded v s) :
    AccBounded v (consumeThrough P stages (.byte b) s) := by
  have kept (hu : ∀ w, .unpacker w ∉ stages) : AccBounded v (consumeThrough P stages (.byte b) s) :=
    hs.of_eq ((consume_byte_frame P stages h b s).acc hu)
  cases h with
  | unpack w =>
    have hw : w = v := hv w (by simp [unpackPipeline])
    subst hw
    exact consume_unpack_byte_accBounded P w b s hs
  | extractz w =>
    have hw : w = v := hv w (by simp [extractPipeline])
    subst hw
    exact (consume_unpack_byte_accBounded P w b s hs).of_eq (consume_extractz_byte_acc P w b s)
  | pack w => exact kept (by simp [packPipeline])
  | frame => exact kept (by simp [framePipeline])
  | strip w => exact kept (by simp [stripPipeline])
  | compress => exact kept (by simp [compressPipeline])
  | decompress => exact kept (by simp [decompressPipeline])
  | hide w => exact kept (by simp [hidePipeline])
  | hidez w => exact kept (by simp [hidePipeline])

/-- Storing a byte keeps the buffer's bounds (41_compressor.md R132). -/
theorem bufferBounded_zStore (b : Byte) (s : State) (h : BufferBounded P s) : BufferBounded P (zStore P b s) := by
  cases hr : P.room s.zbuf.length with
  | true =>
    rw [zStore_room P b s hr]
    constructor
    · simpa using fits_of_room P s.zbuf.length hr
    · intro ho
      have hcap := h.full ho
      simp [Params.room, hcap] at hr
  | false =>
    rw [zStore_full P b s hr]
    exact ⟨h.fits, fun _ => full_of_no_room P _ h.fits hr⟩

/-- A byte keeps the buffer's bounds, whatever the pipeline. -/
theorem consume_byte_bufferBounded (stages : List Stage) (h : IsPipeline stages) (b : Byte) (s : State)
    (hs : BufferBounded P s) : BufferBounded P (consumeThrough P stages (.byte b) s) := by
  have kept (hc : .compressor ∉ stages) (hd : .decompressor ∉ stages) :
      BufferBounded P (consumeThrough P stages (.byte b) s) := by
    obtain ⟨hz, ho⟩ := (consume_byte_frame P stages h b s).buffer hc hd
    exact ⟨by rw [hz]; exact hs.fits, by rw [hz, ho]; exact hs.full⟩
  cases h with
  | compress => exact bufferBounded_zStore P b s hs
  | decompress => exact bufferBounded_zStore P b s hs
  | hidez w => exact bufferBounded_zStore P b s hs
  | extractz w =>
    rw [consume_extractz_byte]
    split
    next =>
      split
      next =>
        obtain ⟨hf, ho⟩ := bufferBounded_zStore P ((s.acc <<< widthBits w) ||| groupOf b) s hs
        exact ⟨hf, ho⟩
      next => exact ⟨hs.fits, hs.full⟩
    next => exact hs
  | pack w => exact kept (by simp [packPipeline]) (by simp [packPipeline])
  | unpack w => exact kept (by simp [unpackPipeline]) (by simp [unpackPipeline])
  | frame => exact kept (by simp [framePipeline]) (by simp [framePipeline])
  | strip w => exact kept (by simp [stripPipeline]) (by simp [stripPipeline])
  | hide w => exact kept (by simp [hidePipeline]) (by simp [hidePipeline])

end Sys2Proof.Machine
end

section
/-! PROOFS. The invariant (10_state.md R24 to R28, R32, R33). -/

namespace Sys2Proof.Machine

open Sys2Proof.Claims

variable {P : Params} {s t : State} {stages : List Stage}

/-! What the invariant says of a BUSY block, by the stages of the latched command -/

/-- The unpacker of the latched command has the latched width (30_encoding.md R91). -/
theorem latchedWidth_of_unpacker (hp : latchedPipeline s = some stages) (w : Width) (hu : .unpacker w ∈ stages) :
    w = latchedWidth s := by
  obtain ⟨i, hd, hi⟩ := latchedPipeline_some s stages hp
  have he := encode_of_decodeCmd s.cmd i hd
  have width (op : BitVec 4) (v : Width) (ce : BitVec 1) (hc : cmdWord op (bitOfWidth v) ce = s.cmd)
      (hw : w = v) : w = latchedWidth s := by
    rw [latchedWidth, ← hc, fieldsOf_cmdWord, hw]
    exact (widthOfBit_bitOfWidth v).symm
  cases i <;> cases hi
  case unpack v => exact width _ v _ (Code.cmd.inj he) (by simpa [unpackPipeline] using hu)
  case extract v ce =>
    exact width _ v _ (Code.cmd.inj he) (by cases ce <;> simpa [extractPipeline] using hu)
  case hide v ce => cases ce <;> simp [hidePipeline] at hu
  all_goals simp [packPipeline, framePipeline, stripPipeline, compressPipeline, decompressPipeline] at hu

/-- Each working register is clear if the pipeline does not own it; MK also behind a compressor (10_state.md R25, R26,
R28; 43_composite_control.md R171). -/
structure OwnersClear (stages : List Stage) (s : State) : Prop where
  acc : (∀ w, .unpacker w ∉ stages) → s.acc = 0#8 ∧ s.nb = 0#3
  sp : (∀ w, .stripper w ∉ stages) → s.sp = false
  mkf : .framer ∉ stages ∨ .compressor ∈ stages → s.mkf = false
  buffer : .compressor ∉ stages → .decompressor ∉ stages → s.zbuf = [] ∧ s.ovf = false

theorem Inv.ownersClear (h : Inv P s) (hp : latchedPipeline s = some stages) : OwnersClear stages s := by
  have hl := latchedStages_eq s stages hp
  constructor
  · intro hu
    exact h.acc_owner ((hasUnpacker_eq_false_iff s).mpr (hl ▸ hu))
  · intro hu
    exact h.sp_owner ((hasStripper_eq_false_iff s).mpr (hl ▸ hu))
  · intro hu
    apply h.mkf_owner
    rwa [hasFramer_eq_false_iff, hasCompressor_eq_true_iff, hl]
  · intro hc hd
    exact h.zbuf_owner ((hasCompressor_eq_false_iff s).mpr (hl ▸ hc))
      ((hasDecompressor_eq_false_iff s).mpr (hl ▸ hd))

theorem Inv.accBounded (h : Inv P s) : AccBounded (latchedWidth s) s := ⟨h.acc_below, h.nb_multiple⟩

theorem Inv.bufferBounded (h : Inv P s) : BufferBounded P s := ⟨h.zbuf_fits, h.ovf_full⟩

/-- ERR is 0 outside FAULT. -/
theorem Inv.err_none (h : Inv P s) (hs : s.seq ≠ .fault) : s.err = .none :=
  not_not.mp (mt h.fault_iff_err.mpr hs)

theorem Inv.err_busy (h : Inv P s) (hb : s.seq = .busy) : s.err = .none :=
  h.err_none (by rw [hb]; nofun)

/-- The lengths are 0 while BUSY: only a compressor's END writes them (10_state.md R33). -/
theorem Inv.sizes_busy (h : Inv P s) (hb : s.seq = .busy) : s.zlenIn = 0#32 ∧ s.zlenOut = 0#32 := by
  have hn (hz : s.zlenIn ≠ 0#32 ∨ s.zlenOut ≠ 0#32) : False := by
    obtain ⟨hd, -⟩ := h.sizes_owner hz
    cases hb.symm.trans hd
  exact ⟨not_not.mp fun h1 => hn (.inl h1), not_not.mp fun h2 => hn (.inr h2)⟩

theorem Inv.latched (h : Inv P s) (hb : s.seq = .busy) : ∃ stages, latchedPipeline s = some stages :=
  Option.isSome_iff_exists.mp (h.busy_stream (.inl hb))

/-! Two ways to meet the invariant -/

/-- While BUSY it is enough that a stream command is latched, the status and the lengths are 0, and the working
registers are within their bounds and clear where the command does not own them. -/
theorem inv_of_busy (hb : t.seq = .busy) (he : t.err = .none) (hz : t.zlenIn = 0#32 ∧ t.zlenOut = 0#32)
    (hp : latchedPipeline t = some stages) (ha : AccBounded (latchedWidth t) t) (hf : BufferBounded P t)
    (ho : OwnersClear stages t) : Inv P t where
  fault_iff_err := by simp [hb, he]
  clear_unless_busy hn := absurd hb hn
  busy_stream _ := by simp [hp]
  idle_cmd := by simp [hb]
  illegal_cmd := by simp [he]
  malformed_cmd := by simp [he]
  overflow_cmd := by simp [he]
  zbuf_fits := hf.fits
  ovf_full := hf.full
  acc_below := ha.below
  nb_multiple := ha.multiple
  acc_owner := by rw [hasUnpacker_eq_false_iff, latchedStages_eq t stages hp]; exact ho.acc
  sp_owner := by rw [hasStripper_eq_false_iff, latchedStages_eq t stages hp]; exact ho.sp
  mkf_owner := by
    rw [hasFramer_eq_false_iff, hasCompressor_eq_true_iff, latchedStages_eq t stages hp]
    exact ho.mkf
  zbuf_owner := by
    rw [hasCompressor_eq_false_iff, hasDecompressor_eq_false_iff, latchedStages_eq t stages hp]
    exact ho.buffer
  sizes_owner := by simp [hz]

/-- With the working registers clear, what is left of the invariant is the clauses on CMD, the status and the
lengths. -/
theorem inv_of_clear (hc : WorkingClear t) (fault_iff_err : t.seq = .fault ↔ t.err ≠ .none)
    (busy_stream : t.seq = .busy ∨ t.seq = .done → (latchedPipeline t).isSome = true)
    (idle_cmd : t.seq = .idle → t.cmd = 0#32 ∧ t.busywr = false)
    (illegal_cmd : t.err = .illegalCmd → (decodeCmd t.cmd).toOption = none ∧ t.busywr = false)
    (malformed_cmd : t.err = .malformed → hasDecompressor t = true)
    (overflow_cmd : t.err = .overflow → hasCompressor t = true ∨ hasDecompressor t = true)
    (sizes_owner : t.zlenIn ≠ 0#32 ∨ t.zlenOut ≠ 0#32 → t.seq = .done ∧ hasCompressor t = true) :
    Inv P t where
  fault_iff_err := fault_iff_err
  clear_unless_busy _ := hc
  busy_stream := busy_stream
  idle_cmd := idle_cmd
  illegal_cmd := illegal_cmd
  malformed_cmd := malformed_cmd
  overflow_cmd := overflow_cmd
  zbuf_fits := by rw [hc.zbuf]; exact fits_zero P
  ovf_full h := by rw [hc.ovf] at h; cases h
  acc_below := by rw [hc.acc, hc.nb]; decide
  nb_multiple := by rw [hc.nb]; exact Nat.dvd_zero _
  acc_owner _ := ⟨hc.acc, hc.nb⟩
  sp_owner _ := hc.sp
  mkf_owner _ := hc.mkf
  zbuf_owner _ _ := ⟨hc.zbuf, hc.ovf⟩
  sizes_owner := sizes_owner

/-! The host's side -/

/-- The invariant says nothing of the host's side: what it has taken, offers, plans and has read. -/
theorem Inv.host (h : Inv P s) (o : List OutTok) (q : List Token) (m : List HostMove) (r : List (BitVec 3 × Word)) :
    Inv P { s with outH := o, inq := q, script := m, readH := r } where
  fault_iff_err := h.fault_iff_err
  clear_unless_busy hb :=
    let ⟨ha, hn, hs, hm, ho, hz⟩ := h.clear_unless_busy hb
    ⟨ha, hn, hs, hm, ho, hz⟩
  busy_stream := h.busy_stream
  idle_cmd := h.idle_cmd
  illegal_cmd := h.illegal_cmd
  malformed_cmd := h.malformed_cmd
  overflow_cmd := h.overflow_cmd
  zbuf_fits := h.zbuf_fits
  ovf_full := h.ovf_full
  acc_below := h.acc_below
  nb_multiple := h.nb_multiple
  acc_owner := h.acc_owner
  sp_owner := h.sp_owner
  mkf_owner := h.mkf_owner
  zbuf_owner := h.zbuf_owner
  sizes_owner := h.sizes_owner

/-! Reset and the control port -/

theorem workingClear_started (v : Word) (q : Seq) (e : ErrCode) : WorkingClear (started v q e s) :=
  ⟨rfl, rfl, rfl, rfl, rfl, rfl⟩

/-- IDLE with CMD 0, after Reset and after CLR. -/
theorem inv_started_idle : Inv P (started 0#32 .idle .none s) := by
  apply inv_of_clear (workingClear_started ..) <;> simp [started]

/-- The start of a stream command. -/
theorem inv_started_busy (v : Word) (i : Instr) (hd : decodeCmd v = .ok i) (hi : i ≠ .clr) :
    Inv P (started v .busy .none s) := by
  obtain ⟨stages, hp⟩ := pipelineOf_of_decodeCmd v i hd hi
  apply inv_of_clear (workingClear_started ..) <;> simp [started, latchedPipeline, hd, hp]

/-- ILLEGAL_CMD (60_exceptions.md R191). -/
theorem inv_started_fault (v : Word) (e : Reject) (hd : decodeCmd v = .error e) :
    Inv P (started v .fault .illegalCmd s) := by
  apply inv_of_clear (workingClear_started ..) <;> simp [started, hd, Except.toOption]

/-- A write to CMD outside BUSY meets the invariant whatever came before (10_state.md R27). -/
theorem inv_written (v : Word) : Inv P (written v s) := by
  unfold written
  split
  next hv =>
    subst hv
    exact inv_started_idle
  next hv =>
    split
    next hl =>
      obtain ⟨i, hd⟩ := (mem_legalWords_iff v).mp hl
      exact inv_started_busy v i hd fun hi => hv (eq_zero_of_decodeCmd_clr v (hi ▸ hd))
    next hl =>
      cases hd : decodeCmd v with
      | ok i => exact absurd (mem_legalWords_of_decodeCmd v i hd) hl
      | error e => exact inv_started_fault v e hd

theorem inv_writeWhileBusy (h : Inv P s) (hb : s.seq = .busy) : Inv P (writeWhileBusy s) := by
  obtain ⟨stages, hp⟩ := h.latched hb
  obtain ⟨ha, hs, hm, hf⟩ := h.ownersClear hp
  exact inv_of_busy hb (h.err_busy hb) (h.sizes_busy hb) hp ⟨h.acc_below, h.nb_multiple⟩
    ⟨h.zbuf_fits, h.ovf_full⟩ ⟨ha, hs, hm, hf⟩

/-! A hand-over -/

/-- A byte leaves clear what the pipeline does not own. -/
theorem OwnersClear.on_byte (ho : OwnersClear stages s) (b : Byte) (hk : KeepsOthers stages (.byte b) s t) :
    OwnersClear stages t := by
  constructor
  · intro hu
    obtain ⟨ha, hn⟩ := hk.acc hu
    rw [ha, hn]
    exact ho.acc hu
  · intro hu
    rw [hk.sp hu]
    exact ho.sp hu
  · intro hu
    have hm : t.mkf = s.mkf := hu.elim hk.mkf fun hc => (hk.silent nofun (.inl hc)).2
    rw [hm]
    exact ho.mkf hu
  · intro hc hd
    obtain ⟨hz, hv⟩ := hk.buffer hc hd
    rw [hz, hv]
    exact ho.buffer hc hd

/-- After a successful END all working registers are clear: the pipeline's own by its stages, the others as before. -/
theorem OwnersClear.on_end (ho : OwnersClear stages s) (hk : KeepsOthers stages .eos s t) (hd : EndsClean stages t) :
    WorkingClear t := by
  have hacc : t.acc = 0#8 ∧ t.nb = 0#3 := by
    by_cases hu : ∃ w, .unpacker w ∈ stages
    · obtain ⟨w, hw⟩ := hu
      exact hd.acc w hw
    · obtain ⟨ha, hn⟩ := hk.acc (not_exists.mp hu)
      rw [ha, hn]
      exact ho.acc (not_exists.mp hu)
  have hsp : t.sp = false := by
    by_cases hu : ∃ w, .stripper w ∈ stages
    · obtain ⟨w, hw⟩ := hu
      exact hd.sp w hw
    · exact (hk.sp (not_exists.mp hu)).trans (ho.sp (not_exists.mp hu))
  have hmkf : t.mkf = false := by
    by_cases hu : .framer ∈ stages
    · exact hd.mkf hu
    · exact (hk.mkf hu).trans (ho.mkf (.inl hu))
  have hbuf : t.zbuf = [] ∧ t.ovf = false := by
    by_cases hu : .compressor ∈ stages ∨ .decompressor ∈ stages
    · exact hd.buffer hu
    · obtain ⟨hc, hz⟩ := not_or.mp hu
      obtain ⟨hzb, hov⟩ := hk.buffer hc hz
      rw [hzb, hov]
      exact ho.buffer hc hz
  exact ⟨hacc.1, hacc.2, hsp, hmkf, hbuf.2, hbuf.1⟩

theorem inv_consume_byte (h : Inv P s) (hb : s.seq = .busy) (hp : latchedPipeline s = some stages) (b : Byte) :
    Inv P (consumeThrough P stages (.byte b) s) := by
  obtain ⟨i, -, hi⟩ := latchedPipeline_some s stages hp
  have hg := isPipeline_of_pipelineOf i stages hi
  have hk := consume_byte_frame P stages hg b s
  obtain ⟨hcmd, -⟩ := consume_keeps P s i stages hi (.byte b)
  obtain ⟨hzi, hzo⟩ := hk.sizes (.inl nofun)
  obtain ⟨hi0, ho0⟩ := h.sizes_busy hb
  have hw : latchedWidth (consumeThrough P stages (.byte b) s) = latchedWidth s := by
    rw [latchedWidth, latchedWidth, hcmd]
  refine inv_of_busy (stages := stages) ((consume_byte_seq P s b i stages hi).trans hb) (hk.err.trans (h.err_busy hb))
    ⟨hzi.trans hi0, hzo.trans ho0⟩ ((latchedPipeline_cmd _ s hcmd).trans hp) ?_
    (consume_byte_bufferBounded P stages hg b s h.bufferBounded) ((h.ownersClear hp).on_byte b hk)
  rw [hw]
  exact consume_byte_accBounded P stages hg b s _ (latchedWidth_of_unpacker hp) h.accBounded

/-- Fault entry by a pipeline meets the invariant (60_exceptions.md R190, R196). -/
theorem inv_enterFault (h : Inv P s) (hb : s.seq = .busy) (hp : latchedPipeline s = some stages) (c : ErrCode)
    (hc : Raises stages c) : Inv P (enterFault c s) := by
  have hl : latchedStages (enterFault c s) = stages := latchedStages_eq _ stages hp
  obtain ⟨hzi, hzo⟩ := h.sizes_busy hb
  rcases hc with ⟨rfl, hm⟩ | ⟨rfl, hm⟩ <;>
    apply inv_of_clear ⟨rfl, rfl, rfl, rfl, rfl, rfl⟩ <;>
    simp [hasCompressor_eq_true_iff, hasDecompressor_eq_true_iff, hl, hm, hzi, hzo]

theorem inv_consume_eos (h : Inv P s) (hb : s.seq = .busy) (hp : latchedPipeline s = some stages) :
    Inv P (consumeThrough P stages .eos s) := by
  obtain ⟨i, -, hi⟩ := latchedPipeline_some s stages hp
  rcases consume_eos_cases P stages (isPipeline_of_pipelineOf i stages hi) s with ⟨c, hc, hx⟩ | ⟨hk, hd⟩
  · rw [hx]
    exact inv_enterFault h hb hp c hc
  · obtain ⟨hcmd, -⟩ := consume_keeps P s i stages hi .eos
    obtain ⟨hi0, ho0⟩ := h.sizes_busy hb
    have he := hk.err.trans (h.err_busy hb)
    have hl := (latchedPipeline_cmd _ s hcmd).trans hp
    refine inv_of_clear ((h.ownersClear hp).on_end hk hd) (by simp [hd.seq, he]) (by simp [hl]) (by simp [hd.seq])
      (by simp [he]) (by simp [he]) (by simp [he]) fun hz => ⟨hd.seq, ?_⟩
    rw [hasCompressor_eq_true_iff, latchedStages_eq _ stages hl]
    by_contra hc
    obtain ⟨hzi, hzo⟩ := hk.sizes (.inr hc)
    rw [hzi, hzo] at hz
    exact hz.elim (absurd hi0) (absurd ho0)

/-! Every move -/

theorem inv_writeCmd (h : Inv P s) (v : Word) (hx : writeCmd v s = .next t) : Inv P t := by
  by_cases hb : s.seq = .busy
  · rw [writeCmd_busy v s hb] at hx
    cases hx
    exact inv_writeWhileBusy h hb
  · rw [writeCmd_free v s hb] at hx
    cases hx
    exact inv_written v

theorem inv_consumeNext (h : Inv Config.params s) (hx : consumeNext s = .next t) : Inv Config.params t := by
  rcases consumeNext_cases s t hx with ⟨-, rfl⟩ | ⟨hb, stages, tok, q, hp, -, rfl⟩
  · exact h
  · have hq : Inv Config.params { s with inq := q } := h.host ..
    cases tok with
    | byte b => exact inv_consume_byte hq hb hp b
    | eos => exact inv_consume_eos hq hb hp

theorem inv_perform (h : Inv Config.params s) (m : HostMove) (hx : perform m s = .next t) : Inv Config.params t := by
  cases m with
  | reset =>
    cases hx
    exact inv_started_idle (s := s)
  | regRead i =>
    cases hx
    exact h.host ..
  | regWrite i v =>
    by_cases hi : i = 1#3
    · subst hi
      exact inv_writeCmd h v hx
    · cases (regWrite_other i v s hi).symm.trans hx
      exact h
  | offer beat =>
    cases hx
    exact h.host ..
  | discard =>
    cases hx
    exact h.host ..
  | consume => exact inv_consumeNext h hx

/-- Settles O48: each host move keeps the invariant. -/
theorem everyStepKeepsTheInvariant : Obligations.EveryStepKeepsTheInvariant := by
  intro s t h hx
  rcases step_cases s t hx with ⟨-, rfl⟩ | ⟨m, r, -, hm⟩
  · exact h
  · have hs : Inv Config.params { s with script := r } := h.host ..
    exact inv_perform hs m hm

/-- Settles O47: the state after reset is the initial state of R27 with CMD 0 and STATE IDLE. -/
theorem invariantHoldsAtReset : Obligations.InvariantHoldsAtReset := inv_started_idle (s := State.reset)

end Sys2Proof.Machine
end

section
/-! PROOFS. What every step can and cannot do: it is always defined, and how it moves STATE, STATUS and CMD
(10_state.md R22, R24, R27, R32). -/

namespace Sys2Proof.Machine

open Sys2Proof.Claims

/-! The block never stops -/

theorem writeCmd_total (v : Word) (s : State) : ∃ t, writeCmd v s = .next t := by
  by_cases hb : s.seq = .busy
  · exact ⟨_, writeCmd_busy v s hb⟩
  · exact ⟨_, writeCmd_free v s hb⟩

theorem consumeNext_total {P : Params} (s : State) (h : Inv P s) : ∃ t, consumeNext s = .next t := by
  by_cases hb : s.seq = .busy
  · obtain ⟨stages, hp⟩ := h.latched hb
    cases hq : s.inq with
    | nil => exact ⟨_, consumeNext_none s hb hq⟩
    | cons tok q => exact ⟨_, consumeNext_token s stages tok q hb hp hq⟩
  · exact ⟨_, consumeNext_free s hb⟩

theorem perform_total {P : Params} (m : HostMove) (s : State) (h : Inv P s) : ∃ t, perform m s = .next t := by
  cases m with
  | regWrite i v =>
    by_cases hi : i = 1#3
    · subst hi
      exact writeCmd_total v s
    · exact ⟨_, regWrite_other i v s hi⟩
  | consume => exact consumeNext_total s h
  | reset | regRead | offer | discard => exact ⟨_, rfl⟩

/-- Settles O49: a hand-over finds a stream command latched, and every other move is defined in every state. -/
theorem theBlockNeverStops : Obligations.TheBlockNeverStops := by
  intro s h
  cases hs : s.script with
  | nil => exact ⟨_, step_idle s hs⟩
  | cons m r =>
    rw [step_move s m r hs]
    exact perform_total m _ (h.host s.outH s.inq r s.readH)

/-! STATUS -/

/-- Settles O50: the invariant leaves one BUSYWR in IDLE and after ILLEGAL_CMD, and ties ERR to FAULT. -/
theorem statusHasTenPossibleValues : Obligations.StatusHasTenPossibleValues := by
  intro s h
  unfold statusWord
  cases hs : s.seq with
  | idle =>
    obtain ⟨-, hb⟩ := h.idle_cmd hs
    rw [h.err_none (by simp [hs]), hb]
    decide
  | busy | done =>
    rw [h.err_none (by simp [hs])]
    cases s.busywr <;> decide
  | fault =>
    cases he : s.err with
    | none => exact absurd he (h.fault_iff_err.mp hs)
    | illegalCmd =>
      obtain ⟨-, hb⟩ := h.illegal_cmd he
      rw [hb]
      decide
    | malformed | overflow => cases s.busywr <;> decide

/-! STATE -/

theorem consumeThrough_eos_seq (P : Params) (stages : List Stage) (h : IsPipeline stages) (s : State) :
    (consumeThrough P stages .eos s).seq = .done ∨
    ((consumeThrough P stages .eos s).seq = .fault ∧
      ((consumeThrough P stages .eos s).err = .malformed ∨ (consumeThrough P stages .eos s).err = .overflow)) := by
  rcases consume_eos_cases P stages h s with ⟨c, hc, hx⟩ | ⟨-, hd⟩
  · rw [hx]
    exact .inr ⟨rfl, hc.imp And.left And.left⟩
  · exact .inl hd.seq

/-- What a write to CMD does to STATE (10_state.md R24). -/
theorem writeCmd_seq (v : Word) (s t : State) (hx : writeCmd v s = .next t) :
    if s.seq = .busy then t.seq = .busy ∧ t.busywr = true
    else if v = 0#32 then t.seq = .idle
    else if v ∈ legalWords then t.seq = .busy
    else t.seq = .fault ∧ t.err = .illegalCmd := by
  by_cases hb : s.seq = .busy
  · rw [writeCmd_busy v s hb] at hx
    cases hx
    rw [if_pos hb]
    exact ⟨hb, rfl⟩
  · rw [writeCmd_free v s hb] at hx
    cases hx
    rw [if_neg hb]
    unfold written
    split
    · rfl
    · split
      · rfl
      · exact ⟨rfl, rfl⟩

/-- What a hand-over does to STATE (10_state.md R24). -/
theorem consumeNext_seq (s t : State) (hx : consumeNext s = .next t) :
    if s.seq ≠ .busy then t.seq = s.seq
    else match s.inq with
      | [] => t.seq = .busy
      | .byte _ :: _ => t.seq = .busy
      | .eos :: _ => t.seq = .done ∨ (t.seq = .fault ∧ (t.err = .malformed ∨ t.err = .overflow)) := by
  rcases consumeNext_cases s t hx with ⟨hn, rfl⟩ | ⟨hb, stages, tok, q, hp, hq, rfl⟩
  · split
    next => rfl
    next hb =>
      have hb := not_not.mp hb
      rw [hn.resolve_left (absurd hb)]
      exact hb
  · obtain ⟨i, -, hi⟩ := latchedPipeline_some s stages hp
    rw [if_neg (not_not.mpr hb), hq]
    cases tok with
    | byte b => exact (consume_byte_seq Config.params { s with inq := q } b i stages hi).trans hb
    | eos => exact consumeThrough_eos_seq Config.params stages (isPipeline_of_pipelineOf i stages hi) _

/-- Settles O51, a case for each kind of move. -/
theorem stateHasNoOtherTransitions : Obligations.StateHasNoOtherTransitions := by
  intro s t m rest hm hx
  rw [step_move s m rest hm] at hx
  cases m with
  | reset | regRead | offer | discard =>
    cases hx
    rfl
  | regWrite i v =>
    by_cases hi : i = 1#3
    · subst hi
      exact writeCmd_seq v { s with script := rest } t hx
    · cases (regWrite_other i v _ hi).symm.trans hx
      simp [hi]
  | consume => exact consumeNext_seq { s with script := rest } t hx

/-! CMD -/

/-- Only Reset and a write outside BUSY change CMD. -/
theorem perform_busy_cmd (m : HostMove) (s t : State) (hb : s.seq = .busy) (hx : perform m s = .next t)
    (ht : t.seq = .busy) : t.cmd = s.cmd := by
  cases m with
  | reset =>
    cases hx
    cases ht
  | regRead | offer | discard =>
    cases hx
    rfl
  | regWrite i v =>
    by_cases hi : i = 1#3
    · subst hi
      cases (writeCmd_busy v s hb).symm.trans hx
      rfl
    · cases (regWrite_other i v s hi).symm.trans hx
      rfl
  | consume =>
    rcases consumeNext_cases s t hx with ⟨-, rfl⟩ | ⟨-, stages, tok, q, hp, -, rfl⟩
    · rfl
    · obtain ⟨i, -, hi⟩ := latchedPipeline_some s stages hp
      exact (consume_keeps Config.params { s with inq := q } i stages hi tok).1

/-- The script is no part of what a write makes of a state. -/
theorem written_script (v : Word) (s : State) (m : List HostMove) :
    written v { s with script := m } = { written v s with script := m } := by
  unfold written
  split
  · rfl
  · split <;> rfl

/-- Settles O10: a write outside BUSY makes R27's initial state, and while BUSY nothing changes CMD. -/
theorem everyCmdWriteInitialises : Obligations.EveryCmdWriteInitialises := by
  constructor
  · intro s v rest hm hb
    rw [step_move s _ rest hm]
    exact (writeCmd_free v { s with script := rest } hb).trans (congrArg _ (written_script v s rest))
  · intro s t hb hx ht
    rcases step_cases s t hx with ⟨-, rfl⟩ | ⟨m, r, -, hm⟩
    · rfl
    · exact perform_busy_cmd m { s with script := r } t hb hm ht

end Sys2Proof.Machine
end

section
/-! PROOFS. No trace of earlier operations (10_state.md R27, 20_memory.md R65). -/

namespace Sys2Proof.Machine

open Sys2Proof.Claims

/-- `s` with longer histories: `o` in front of what OUT has taken and `r` in front of what the host has read. -/
def behind (o : List OutTok) (r : List (BitVec 3 × Word)) (s : State) : State :=
  { s with outH := o ++ s.outH, readH := r ++ s.readH }

variable (o : List OutTok) (r : List (BitVec 3 × Word))

theorem written_behind (v : Word) (s : State) : written v (behind o r s) = behind o r (written v s) := by
  unfold written
  split
  · rfl
  · split <;> rfl

/-- What a write outside BUSY makes of a state depends on the host's side alone: the rest could be the reset state's. -/
theorem written_eq_behind (v : Word) (s : State) :
    written v s =
      behind s.outH s.readH (written v { State.reset with inq := s.inq, script := s.script }) := by
  rw [← written_behind]
  simp only [written, started, behind, State.reset, List.append_nil]

theorem regRead_behind (i : BitVec 3) (s : State) : regRead i (behind o r s) = behind o r (regRead i s) := by
  have hv : regValue i (behind o r s) = regValue i s := rfl
  rw [regRead, hv]
  simp only [regRead, behind, List.append_assoc]

theorem consumeThrough_behind (P : Params) (i : Instr) (stages : List Stage) (h : pipelineOf i = some stages)
    (tok : Token) (s : State) :
    consumeThrough P stages tok (behind o r s) = behind o r (consumeThrough P stages tok s) := by
  obtain ⟨-, hb, hq, hm, hr⟩ := consume_keeps P s i stages h tok
  have hp := consume_inPlace P s i stages h tok o s.inq s.script (r ++ s.readH) s.busywr
  calc consumeThrough P stages tok (behind o r s)
      = inPlace o s.inq s.script (r ++ s.readH) s.busywr (consumeThrough P stages tok s) := hp
    _ = behind o r (consumeThrough P stages tok s) := by simp only [inPlace, behind, hb, hq, hm, hr]

/-- No move observes the histories. -/
theorem perform_behind (m : HostMove) (s t : State) (hx : perform m s = .next t) :
    perform m (behind o r s) = .next (behind o r t) := by
  cases m with
  | reset | offer | discard =>
    cases hx
    rfl
  | regRead i =>
    cases hx
    exact congrArg Host.Outcome.next (regRead_behind o r i s)
  | regWrite i v =>
    by_cases hi : i = 1#3
    · subst hi
      by_cases hb : s.seq = .busy
      · cases (writeCmd_busy v s hb).symm.trans hx
        exact writeCmd_busy v (behind o r s) hb
      · cases (writeCmd_free v s hb).symm.trans hx
        exact (writeCmd_free v (behind o r s) hb).trans (congrArg _ (written_behind o r v s))
    · cases (regWrite_other i v s hi).symm.trans hx
      exact regWrite_other i v (behind o r s) hi
  | consume =>
    rcases consumeNext_cases s t hx with ⟨hn | hq, rfl⟩ | ⟨hb, stages, tok, q, hp, hq, rfl⟩
    · exact consumeNext_free (behind o r t) hn
    · by_cases hb : t.seq = .busy
      · exact consumeNext_none (behind o r t) hb hq
      · exact consumeNext_free (behind o r t) hb
    · obtain ⟨i, -, hi⟩ := latchedPipeline_some s stages hp
      exact (consumeNext_token (behind o r s) stages tok q hb hp hq).trans
        (congrArg _ (consumeThrough_behind o r Config.params i stages hi tok { s with inq := q }))

theorem step_behind (s t : State) (hx : step s = .next t) : step (behind o r s) = .next (behind o r t) := by
  rcases step_cases s t hx with ⟨hs, rfl⟩ | ⟨m, ms, hs, hm⟩
  · exact step_idle (behind o r t) hs
  · rw [step_move (behind o r s) m ms hs]
    exact perform_behind o r m { s with script := ms } t hm

/-- A run from a state that meets the invariant goes on for ever, and the histories in front of it do not change it. -/
theorem run_behind (k : Nat) (s : State) (h : Inv Config.params s) :
    ∃ t, ∀ (o : List OutTok) (r : List (BitVec 3 × Word)),
      Host.Core.run Sys2Proof.core k (behind o r s) = .next (behind o r t) := by
  induction k generalizing s with
  | zero => exact ⟨s, fun o r => run_zero _⟩
  | succ k ih =>
    obtain ⟨u, hu⟩ := theBlockNeverStops s h
    obtain ⟨t, ht⟩ := ih u (everyStepKeepsTheInvariant s u h hu)
    exact ⟨t, fun o r => (run_next k _ _ (step_behind o r s u hu)).trans (ht o r)⟩

/-- The first step of a block with a write to CMD ahead. -/
theorem step_written (s : State) (v : Word) (rest : List HostMove) (hm : s.script = .regWrite 1#3 v :: rest)
    (hb : s.seq ≠ .busy) :
    step s = .next (behind s.outH s.readH (written v { State.reset with inq := s.inq, script := rest })) := by
  rw [step_move s _ rest hm]
  exact (writeCmd_free v { s with script := rest } hb).trans (congrArg _ (written_eq_behind v _))

/-- Settles O55: after the write both blocks are one state behind their own histories, and no step observes those. -/
theorem noTraceOfEarlierOperations : Obligations.NoTraceOfEarlierOperations := by
  intro a b v rest k ha hb hm hs hq
  obtain ⟨t, ht⟩ := run_behind k (written v { State.reset with inq := a.inq, script := rest }) (inv_written v)
  refine ⟨t, t.outH, t.readH, ?_, ?_⟩
  · exact (run_next k _ _ (step_written a v rest hm ha)).trans (ht a.outH a.readH)
  · have hstep := step_written b v rest (hs.trans hm) hb
    rw [hq] at hstep
    exact (run_next k _ _ hstep).trans (ht b.outH b.readH)

end Sys2Proof.Machine
end

section
/-! PROOFS. The control port's registers and the host's side of IN (20_memory.md R51, R59, R60). -/

namespace Sys2Proof.Machine

open Sys2Proof.Claims

/-- The fields of STATUS do not overlap: the word is their weighted sum (10_state.md R32). -/
theorem statusWord_eq_statusNat (s : State) : statusWord s = BitVec.ofNat 32 (statusNat s) := by
  unfold statusWord statusNat
  cases s.busywr <;> cases s.err <;> cases s.seq <;> rfl

/-- There are eight register indices (20_memory.md R57). -/
theorem registerIndex_cases (i : BitVec 3) :
    i = 0#3 ∨ i = 1#3 ∨ i = 2#3 ∨ i = 3#3 ∨ i = 4#3 ∨ i = 5#3 ∨ i = 6#3 ∨ i = 7#3 := by
  revert i
  decide

theorem regValue_eq_readsAs (i : BitVec 3) (s : State) : regValue i s = readsAs i s := by
  rcases registerIndex_cases i with rfl | rfl | rfl | rfl | rfl | rfl | rfl | rfl
  case inr.inr.inl => exact statusWord_eq_statusNat s
  all_goals rfl

/-- Settles O8: the only write of RegRead is to the host's read history. -/
theorem registerReadsHaveNoSideEffect : Obligations.RegisterReadsHaveNoSideEffect := by
  intro s i rest hm
  rw [step_move s _ rest hm, perform, regRead, regValue_eq_readsAs]
  rfl

/-- Settles O9: the second write of the same word finds the block BUSY. -/
theorem onlyCmdCanBeWritten : Obligations.OnlyCmdCanBeWritten := by
  constructor
  · intro s i v rest hm hi
    rw [step_move s _ rest hm]
    exact regWrite_other i v _ hi
  · intro s v rest hm hb hv hz
    have start := everyCmdWriteInitialises.1 s v _ hm hb
    rw [if_neg hz, if_pos hv] at start
    have again := writeWhileBusyOnlySetsBusyWr
      { started v .busy .none s with script := .regWrite 1#3 v :: rest } v rest rfl rfl
    rw [run_next 1 s _ start, run_next 0 _ _ again, run_zero]

/-- Settles O16: outside BUSY the step Consume is not enabled. -/
theorem tokensStayWithTheHostUnlessBusy : Obligations.TokensStayWithTheHostUnlessBusy := by
  intro s rest hm hb
  rw [step_move s _ rest hm]
  exact consumeNext_free { s with script := rest } hb

/-- Settles O17, a clause for each of the host's two acts on IN. -/
theorem offeringAndWithdrawingTouchOnlyIn : Obligations.OfferingAndWithdrawingTouchOnlyIn := by
  constructor
  · intro s beat rest hm
    rw [step_move s _ rest hm]
    rfl
  · intro s rest hm
    rw [step_move s _ rest hm, List.drop_one]
    rfl

end Sys2Proof.Machine
end

section
/-! PROOFS. What a step appends to OUT (20_memory.md R53, 43_composite_control.md R175, 60_exceptions.md R196). -/

namespace Sys2Proof.Machine

/-- From `s` to `t` nothing but bytes was appended to OUT. -/
def AppendsBytes (s t : State) : Prop := ∃ y : Bytes, t.outH = s.outH ++ y.map .byte

theorem AppendsBytes.of_outH_eq {s t : State} (h : t.outH = s.outH) : AppendsBytes s t := ⟨[], by simp [h]⟩

/-- The framer's pending marker is at most one byte. -/
theorem pendingMarker_bytes (s : State) : ∃ y : Bytes, pendingMarker s = y.map .byte := by
  cases hm : s.mkf with
  | true => exact ⟨[], by simp [pendingMarker, hm]⟩
  | false => exact ⟨[markerByte], by simp [pendingMarker, hm]⟩

theorem appendsBytes_afterMarker {s t : State} (x : Bytes)
    (h : t.outH = s.outH ++ pendingMarker s ++ x.map .byte) : AppendsBytes s t := by
  obtain ⟨y, hy⟩ := pendingMarker_bytes s
  exact ⟨y ++ x, by rw [h, hy, List.map_append, List.append_assoc]⟩

variable (P : Params)

/-- A byte makes every pipeline append bytes only. -/
theorem consume_byte_appendsBytes (stages : List Stage) (h : IsPipeline stages) (b : Byte) (s : State) :
    AppendsBytes s (consumeThrough P stages (.byte b) s) := by
  cases h with
  | pack w =>
    rw [consume_pack_byte]
    exact ⟨symbolsOf w b, rfl⟩
  | unpack w =>
    rw [consume_unpack_byte]
    split
    · split
      · exact ⟨[(s.acc <<< widthBits w) ||| groupOf b], rfl⟩
      · exact .of_outH_eq rfl
    · exact .of_outH_eq rfl
  | frame =>
    rw [consume_frame_byte]
    exact appendsBytes_afterMarker [b] rfl
  | strip w =>
    rw [consume_strip_byte]
    split
    · exact .of_outH_eq rfl
    · split
      · exact ⟨if s.sp then [markerByte] else [], by cases s.sp <;> rfl⟩
      · exact ⟨(if s.sp then [markerByte] else []) ++ [b], by cases s.sp <;> simp⟩
  | compress =>
    rw [consume_compress_byte, zStore_frame]
    exact .of_outH_eq rfl
  | decompress =>
    rw [consume_decompress_byte, zStore_frame]
    exact .of_outH_eq rfl
  | hide w =>
    rw [consume_hide_byte]
    exact appendsBytes_afterMarker (symbolsOf w b) rfl
  | hidez w =>
    rw [consume_hidez_byte, zStore_frame]
    exact .of_outH_eq rfl
  | extractz w =>
    rw [consume_extractz_byte, zStore_frame]
    split
    · split <;> exact .of_outH_eq rfl
    · exact .of_outH_eq rfl

/-- END makes every pipeline append bytes and then finish, or enter FAULT with OUT as it was. -/
theorem consume_eos_finish_or_fault (stages : List Stage) (h : IsPipeline stages) (s : State) :
    (∃ r, AppendsBytes s r ∧ consumeThrough P stages .eos s = finish r) ∨
    (∃ c r, (c = .malformed ∨ c = .overflow) ∧ r.outH = s.outH ∧
      consumeThrough P stages .eos s = enterFault c r) := by
  cases h with
  | pack w => exact .inl ⟨s, .of_outH_eq rfl, consume_pack_eos P s w⟩
  | unpack w => exact .inl ⟨{ s with acc := 0#8, nb := 0#3 }, .of_outH_eq rfl, consume_unpack_eos P s w⟩
  | frame =>
    exact .inl ⟨{ s with mkf := false, outH := s.outH ++ pendingMarker s },
      appendsBytes_afterMarker [] (List.append_nil _).symm, consume_frame_eos P s⟩
  | strip w => exact .inl ⟨{ s with sp := false }, .of_outH_eq rfl, consume_strip_eos P s w⟩
  | hide w =>
    exact .inl ⟨{ s with mkf := false, outH := s.outH ++ pendingMarker s },
      appendsBytes_afterMarker [] (List.append_nil _).symm, consume_hide_eos P s w⟩
  | compress =>
    rw [consume_compress_eos]
    split
    · exact .inr ⟨.overflow, s, .inr rfl, rfl, rfl⟩
    · exact .inl ⟨_, ⟨P.zc s.zbuf, rfl⟩, rfl⟩
  | hidez w =>
    rw [consume_hidez_eos]
    split
    · exact .inr ⟨.overflow, s, .inr rfl, rfl, rfl⟩
    · exact .inl ⟨_, appendsBytes_afterMarker ((P.zc s.zbuf).flatMap (symbolsOf w)) rfl, rfl⟩
  | decompress =>
    rcases consume_decompress_eos_cases P s with ⟨c, hc, hx⟩ | ⟨-, x, hx⟩
    · exact .inr ⟨c, s, hc, rfl, hx⟩
    · exact .inl ⟨_, ⟨x, rfl⟩, hx⟩
  | extractz w =>
    rw [consume_extractz_eos]
    rcases consume_decompress_eos_cases P { s with acc := 0#8, nb := 0#3 } with ⟨c, hc, hx⟩ | ⟨-, x, hx⟩
    · exact .inr ⟨c, _, hc, rfl, hx⟩
    · exact .inl ⟨_, ⟨x, rfl⟩, hx⟩

/-- How an operation's last step leaves OUT: bytes and END(0) in DONE, or END(ERR) alone in FAULT
(20_memory.md R53). -/
theorem consume_eos_outH (stages : List Stage) (h : IsPipeline stages) (s : State) :
    ∃ y : Bytes,
      ((consumeThrough P stages .eos s).seq = .done ∧
        (consumeThrough P stages .eos s).outH = s.outH ++ outputStream y .none) ∨
      ((consumeThrough P stages .eos s).seq = .fault ∧
        ((consumeThrough P stages .eos s).err = .malformed ∨ (consumeThrough P stages .eos s).err = .overflow) ∧
        (consumeThrough P stages .eos s).outH = s.outH ++ [.fin (consumeThrough P stages .eos s).err]) := by
  rcases consume_eos_finish_or_fault P stages h s with ⟨r, ⟨y, hy⟩, hx⟩ | ⟨c, r, hc, hr, hx⟩
  · refine ⟨y, .inl ⟨by rw [hx, finish_seq], ?_⟩⟩
    rw [hx, finish_outH, hy, outputStream, List.append_assoc]
  · refine ⟨[], .inr ?_⟩
    rw [hx, enterFault_outH, hr]
    exact ⟨rfl, hc, rfl⟩

theorem written_outH (v : Word) (s : State) : (written v s).outH = s.outH := by
  unfold written
  split
  · rfl
  · split <;> rfl

/-- Only a hand-over appends to OUT (20_memory.md R53). -/
theorem perform_outH (m : HostMove) (s t : State) (hm : m ≠ .consume) (hx : perform m s = .next t) :
    t.outH = s.outH := by
  cases m with
  | reset | regRead | offer | discard =>
    cases hx
    rfl
  | regWrite i v =>
    by_cases hi : i = 1#3
    · subst hi
      by_cases hb : s.seq = .busy
      · cases (writeCmd_busy v s hb).symm.trans hx
        rfl
      · cases (writeCmd_free v s hb).symm.trans hx
        exact written_outH v s
    · cases (regWrite_other i v s hi).symm.trans hx
      rfl
  | consume => exact absurd rfl hm

/-- Settles O53: only a hand-over while BUSY appends, a byte makes bytes of it, and END ends the stream. -/
theorem outStreamsEndOnce : Obligations.OutStreamsEndOnce := by
  intro s t m rest hs hx
  rw [step_move s m rest hs] at hx
  by_cases hm : m = .consume
  · subst hm
    rcases consumeNext_cases _ t hx with ⟨hn, rfl⟩ | ⟨hb, stages, tok, q, hp, hq, rfl⟩
    · refine ⟨[], fun ⟨_, hb, q, hq⟩ => ?_, fun _ => ⟨(List.append_nil _).symm, fun _ => rfl⟩⟩
      exact absurd hn (by simp [hb, hq])
    · obtain ⟨i, -, hi⟩ := latchedPipeline_some _ stages hp
      have hg := isPipeline_of_pipelineOf i stages hi
      cases tok with
      | eos =>
        obtain ⟨y, hy⟩ := consume_eos_outH Config.params stages hg { s with script := rest, inq := q }
        exact ⟨y, fun _ => hy, fun hn => absurd ⟨rfl, hb, q, hq⟩ hn⟩
      | byte b =>
        obtain ⟨y, hy⟩ := consume_byte_appendsBytes Config.params stages hg b { s with script := rest, inq := q }
        refine ⟨y, fun ⟨_, _, r, hr⟩ => ?_, fun _ => ⟨hy, fun hn => ?_⟩⟩
        · cases hq.symm.trans hr
        · exact absurd hb (hn.resolve_left (absurd rfl))
  · refine ⟨[], fun h => absurd h.1 hm, fun _ => ⟨?_, fun _ => rfl⟩⟩
    rw [perform_outH m _ t hm hx, List.map_nil, List.append_nil]

end Sys2Proof.Machine
end

section
/-! PROOFS. What a Consume step does not depend on: the tokens behind the one it takes, and the control port
(20_memory.md R55, R65, R68). -/

namespace Sys2Proof.Machine

/-- A Consume step carries the host's side of the state through unchanged. -/
theorem consumeThrough_host (P : Params) (i : Instr) (stages : List Stage) (h : pipelineOf i = some stages)
    (tok : Token) (s : State) (q : List Token) (m : List HostMove) (r : List (BitVec 3 × Word)) (f : Bool) :
    consumeThrough P stages tok { s with inq := q, script := m, readH := r, busywr := f } =
      { consumeThrough P stages tok s with inq := q, script := m, readH := r, busywr := f } :=
  consume_inPlace P s i stages h tok [] q m r f

/-! The tokens behind -/

theorem consumeThrough_inq (P : Params) (i : Instr) (stages : List Stage) (h : pipelineOf i = some stages)
    (tok : Token) (s : State) (q : List Token) :
    consumeThrough P stages tok { s with inq := q } = { consumeThrough P stages tok s with inq := q } := by
  obtain ⟨-, hf, -, hm, hr⟩ := consume_keeps P s i stages h tok
  refine (consumeThrough_host P i stages h tok s q s.script s.readH s.busywr).trans ?_
  rw [← hm, ← hr, ← hf]

/-- Settles O54: the step is the latched pipeline on the first token, which carries the tokens behind it through. -/
theorem noLookAhead : Obligations.NoLookAhead := by
  intro s t rest tok q q' hm hb hq hx
  rw [step_move s _ rest hm] at hx
  rcases consumeNext_cases _ t hx with ⟨hn, -⟩ | ⟨-, stages, tok', r, hp, hq', rfl⟩
  · exact absurd hn (by simp [hb, hq])
  · cases hq.symm.trans hq'
    obtain ⟨i, -, hi⟩ := latchedPipeline_some _ stages hp
    obtain ⟨-, -, hk, -, -⟩ := consume_keeps Config.params { s with script := rest, inq := q } i stages hi tok
    refine ⟨hk, ?_⟩
    rw [step_consume { s with inq := tok :: q' } stages tok q' rest hm hb hp rfl]
    exact congrArg _ (consumeThrough_inq Config.params i stages hi tok { s with script := rest, inq := q } q')

/-! The control port -/

/-- `s` with what the data path cannot see replaced: BUSYWR, the read history and the host's plans. -/
def withControl (f : Bool) (r : List (BitVec 3 × Word)) (m : List HostMove) (s : State) : State :=
  { s with busywr := f, readH := r, script := m }

theorem SameData.eq_withControl {s t : State} (h : SameData s t) :
    t = withControl t.busywr t.readH t.script s := h.symm

theorem sameData_withControl (s : State) (f : Bool) (r : List (BitVec 3 × Word)) (m : List HostMove) :
    SameData s (withControl f r m s) := rfl

/-- A hand-over does not observe what only the control port and the host see (20_memory.md R65). -/
theorem consumeNext_withControl (s t : State) (hx : consumeNext s = .next t) (f : Bool)
    (r : List (BitVec 3 × Word)) (m : List HostMove) :
    consumeNext (withControl f r m s) = .next (withControl f r m t) := by
  rcases consumeNext_cases s t hx with ⟨hn, rfl⟩ | ⟨hb, stages, tok, q, hp, hq, rfl⟩
  · by_cases hb : t.seq = .busy
    · exact consumeNext_none (withControl f r m t) hb (hn.resolve_left (absurd hb))
    · exact consumeNext_free (withControl f r m t) hb
  · obtain ⟨i, -, hi⟩ := latchedPipeline_some s stages hp
    obtain ⟨-, -, hk, -, -⟩ := consume_keeps Config.params { s with inq := q } i stages hi tok
    rw [consumeNext_token (withControl f r m s) stages tok q hb hp hq]
    refine congrArg _ ((consumeThrough_host Config.params i stages hi tok { s with inq := q } q m r f).trans ?_)
    rw [withControl, hk]

/-- States with the same data have the same data after a hand-over. -/
theorem SameData.step_consume {s t s' : State} (h : SameData s t) (m m' : List HostMove)
    (hs : s.script = .consume :: m) (ht : t.script = .consume :: m') (hx : step s = .next s') :
    ∃ t', step t = .next t' ∧ SameData s' t' := by
  rw [step_move s _ m hs] at hx
  refine ⟨withControl t.busywr t.readH m' s', ?_, sameData_withControl ..⟩
  rw [step_move t _ m' ht]
  have hc := consumeNext_withControl _ s' hx t.busywr t.readH m'
  rw [h.eq_withControl]
  exact hc

/-- With a stream command latched a hand-over is defined. -/
theorem consumeNext_of_latched (s : State) (hp : (latchedPipeline s).isSome = true) :
    ∃ t, consumeNext s = .next t := by
  obtain ⟨stages, hp⟩ := Option.isSome_iff_exists.mp hp
  by_cases hb : s.seq = .busy
  · cases hq : s.inq with
    | nil => exact ⟨_, consumeNext_none s hb hq⟩
    | cons tok q => exact ⟨_, consumeNext_token s stages tok q hb hp hq⟩
  · exact ⟨_, consumeNext_free s hb⟩

/-- While BUSY an access changes at most BUSYWR and the read history (20_memory.md R59, R60, 10_state.md R31). -/
theorem step_access (s : State) (c : HostMove) (m : List HostMove) (hc : isAccess c = true)
    (hs : s.script = c :: m) (hb : s.seq = .busy) : ∃ f r, step s = .next (withControl f r m s) := by
  rw [step_move s c m hs]
  cases c with
  | regRead i => exact ⟨s.busywr, s.readH ++ [(i, regValue i s)], rfl⟩
  | regWrite i v =>
    by_cases hi : i = 1#3
    · subst hi
      exact ⟨true, s.readH, writeCmd_busy v { s with script := m } hb⟩
    · exact ⟨s.busywr, s.readH, regWrite_other i v { s with script := m } hi⟩
  | reset | offer | discard | consume => cases hc

/-- While BUSY any sequence of accesses changes at most BUSYWR and the read history. -/
theorem run_accesses (cs m : List HostMove) (s : State) (hb : s.seq = .busy)
    (hcs : ∀ c ∈ cs, isAccess c = true) (hs : s.script = cs ++ m) :
    ∃ f r, Host.Core.run Sys2Proof.core cs.length s = .next (withControl f r m s) := by
  induction cs generalizing s with
  | nil => exact ⟨s.busywr, s.readH, by rw [← show s.script = m from hs]; rfl⟩
  | cons c cs ih =>
    obtain ⟨hc, hcs⟩ := List.forall_mem_cons.mp hcs
    obtain ⟨f, r, hx⟩ := step_access s c (cs ++ m) hc hs hb
    obtain ⟨f', r', hr⟩ := ih (withControl f r (cs ++ m) s) hb hcs rfl
    exact ⟨f', r', (run_next cs.length s _ hx).trans hr⟩

/-- Settles O56: accesses touch nothing a hand-over observes. -/
theorem controlPortCannotTouchTheDataPath : Obligations.ControlPortCannotTouchTheDataPath := by
  constructor
  · intro s cs rest hb hp hcs hs
    obtain ⟨f, r, hrun⟩ := run_accesses cs (.consume :: rest) s hb hcs hs
    obtain ⟨t, hc⟩ := consumeNext_of_latched (withControl f r rest s) hp
    have ht : step (withControl f r (.consume :: rest) s) = .next t := (step_move _ .consume rest rfl).trans hc
    have same : SameData (withControl f r (.consume :: rest) s) { s with script := .consume :: rest } := rfl
    obtain ⟨u, hu, htu⟩ := same.step_consume rest rest rfl rfl ht
    refine ⟨t, u, ?_, hu, htu⟩
    rw [run_add cs.length 1 s _ hrun, run_next 0 _ t ht, run_zero]
  · intro s t s' m m' hst hs ht hx
    exact hst.step_consume m m' hs ht hx

end Sys2Proof.Machine
end

section
/-! PROOFS. The codes of the instructions: a code decodes to exactly what is encoded to it, and the legal words are
those with the four field conditions (30_encoding.md R80, R84, R92 to R96). -/

namespace Sys2Proof

open Sys2Proof.Machine Sys2Proof.Claims

/-! Stream bytes -/

/-- The row a byte decodes to is read at that width and has that byte (30_encoding.md R80, R84). -/
theorem encode_of_decodeByte (w : Width) (b : Byte) (i : Instr) (h : decodeByte w b = .ok i) :
    readAt w i = true ∧ encode i = .byte b := by
  unfold decodeByte at h
  split at h
  next hb =>
    cases h
    exact ⟨rfl, hb ▸ rfl⟩
  next =>
    cases w
    case w1 | w2 =>
      simp only at h
      (repeat' split at h) <;> cases h <;> subst_vars <;> exact ⟨rfl, rfl⟩

/-- A byte decodes to each row that has this byte and is read at the width. -/
theorem decodeByte_of_encode (w : Width) (b : Byte) (i : Instr) (hr : readAt w i = true) (he : encode i = .byte b) :
    decodeByte w b = .ok i := by
  cases i <;> cases he
  case marker => rfl
  all_goals
    cases of_decide_eq_true hr
    rfl

/-! Command words -/

/-- A command word is read at both widths (30_encoding.md R98). -/
theorem readAt_of_encode_cmd (w : Width) (i : Instr) (v : Word) (h : encode i = .cmd v) : readAt w i = true := by
  cases i <;> cases h <;> rfl

/-- Settles O3, a case for each form of code. -/
theorem decodeAndEncodeAreInverse : Obligations.DecodeAndEncodeAreInverse := by
  intro w c i
  cases c with
  | cmd v =>
    constructor
    · intro h
      have he := encode_of_decodeCmd v i h
      exact ⟨readAt_of_encode_cmd w i v he, he⟩
    · rintro ⟨-, he⟩
      exact decodeCmd_of_encode i v he
  | byte b => exact ⟨encode_of_decodeByte w b i, fun ⟨hr, he⟩ => decodeByte_of_encode w b i hr he⟩

/-! Legality (30_encoding.md R93) -/

theorem CmdFields.wellFormed_iff (f : CmdFields) :
    f.wellFormed = true ↔ f.zero = 0#26 ∧ f.op.toNat ≤ 8 ∧ (f.op.toNat ∈ [0, 3, 5, 6] → f.w = 0#1) ∧
      (f.op.toNat ∈ [0, 1, 2, 3, 4, 5, 6] → f.ce = 0#1) := by
  simp only [wellFormed, zeroOk, opOk, widthOk, ceOk, Bool.and_eq_true, Bool.or_eq_true, Bool.not_eq_true',
    beq_iff_eq, decide_eq_true_eq, and_assoc, ← Bool.not_eq_true, List.contains_iff_mem, imp_iff_not_or]

theorem decodePlain_isOk_iff (f : CmdFields) (i : Instr) :
    (∃ j, decodePlain f i = .ok j) ↔ f.w = 0#1 ∧ f.ce = 0#1 := by
  constructor
  · rintro ⟨j, h⟩
    exact (decodePlain_ok h).2
  · rintro ⟨hw, hc⟩
    exact ⟨i, by rw [decodePlain, if_pos hw, if_pos hc]⟩

theorem decodeWidth_isOk_iff (f : CmdFields) (i : Width → Instr) :
    (∃ j, decodeWidth f i = .ok j) ↔ f.ce = 0#1 := by
  constructor
  · rintro ⟨j, h⟩
    exact (decodeWidth_ok h).2
  · intro hc
    exact ⟨_, if_pos hc⟩

/-- The decoder accepts exactly the words whose fields are legal (30_encoding.md R93, R95). -/
theorem decodeCmd_isOk_iff (v : Word) : (∃ i, decodeCmd v = .ok i) ↔ (fieldsOf v).wellFormed = true := by
  rw [CmdFields.wellFormed_iff]
  unfold decodeCmd
  generalize fieldsOf v = f
  simp only
  split
  next hz =>
    split
    case h_1 hk | h_4 hk | h_6 hk | h_7 hk => simp [hz, hk, decodePlain_isOk_iff]
    case h_2 hk | h_3 hk | h_5 hk => simp [hz, hk, decodeWidth_isOk_iff]
    case h_8 hk | h_9 hk => simp [hz, hk, decodeFull]
    case h_10 =>
      have hop : ¬ f.op.toNat ≤ 8 := by
        simp only [imp_false] at *
        omega
      simp [hop]
  next hz => simp [hz]

theorem toNat_op_fieldsOf (v : Word) : (fieldsOf v).op.toNat = v.toNat % 16 := by
  simp [fieldsOf]

theorem w_fieldsOf_eq_zero_iff (v : Word) : (fieldsOf v).w = 0#1 ↔ v.toNat / 16 % 2 = 0 := by
  simp [fieldsOf, ← BitVec.toNat_inj, Nat.shiftRight_eq_div_pow]

theorem ce_fieldsOf_eq_zero_iff (v : Word) : (fieldsOf v).ce = 0#1 ↔ v.toNat / 32 % 2 = 0 := by
  simp [fieldsOf, ← BitVec.toNat_inj, Nat.shiftRight_eq_div_pow]

theorem zero_fieldsOf_eq_zero_iff (v : Word) : (fieldsOf v).zero = 0#26 ↔ v.toNat / 64 = 0 := by
  have hv : v.toNat / 64 < 2 ^ 26 := Nat.div_lt_of_lt_mul v.isLt
  simp only [fieldsOf, ← BitVec.toNat_inj, BitVec.extractLsb'_toNat, Nat.shiftRight_eq_div_pow]
  exact (Nat.mod_eq_of_lt hv).congr_left

/-- Settles O2: the four conditions are those on the fields, and a legal word is the word of a command. -/
theorem legalWordsAreTheEighteen : Obligations.LegalWordsAreTheEighteen := by
  intro v
  refine ⟨?_, (mem_legalWords_iff v).symm⟩
  rw [decodeCmd_isOk_iff, CmdFields.wellFormed_iff, toNat_op_fieldsOf, w_fieldsOf_eq_zero_iff,
    ce_fieldsOf_eq_zero_iff, zero_fieldsOf_eq_zero_iff]

/-- Settles O1: each row of the two tables, evaluated. -/
theorem writtenCodesDecodeToTheirInstructions : Obligations.WrittenCodesDecodeToTheirInstructions :=
  ⟨by decide, by decide, fun w => decodeByte_of_encode w _ .marker rfl rfl⟩

end Sys2Proof
end

section
/-! PROOFS. The alphabet and the beats of the two ports (30_encoding.md R80 to R83, R86). -/

namespace Sys2Proof.Machine

open Sys2Proof.Claims

/-! The two codomains -/

theorem inCod_w1_iff_mem (b : Byte) : inCod .w1 b = true ↔ b ∈ [0x1C#8, 0x1D#8] := by
  simp only [inCod_iff, widthBits, List.mem_cons, List.not_mem_nil, or_false, ← BitVec.toNat_inj, BitVec.toNat_ofNat]
  omega

theorem inCod_w2_iff_mem (b : Byte) : inCod .w2 b = true ↔ b ∈ [0x1C#8, 0x1D#8, 0x1E#8, 0x1F#8] := by
  simp only [inCod_iff, widthBits, List.mem_cons, List.not_mem_nil, or_false, ← BitVec.toNat_inj, BitVec.toNat_ofNat]
  omega

/-- Settles O5: the codomains are the ranges of `inCod_iff`, listed. -/
theorem codomainsOfTheTwoWidths : Obligations.CodomainsOfTheTwoWidths :=
  ⟨inCod_w1_iff_mem, inCod_w2_iff_mem, by decide, inCod_marker⟩

/-! Groups and symbols -/

@[simp] theorem groupOf_symbol (g : Byte) : groupOf (symbol g) = g := by
  rw [groupOf, symbol, BitVec.add_comm, BitVec.add_sub_cancel]

@[simp] theorem symbol_groupOf (b : Byte) : symbol (groupOf b) = b := by
  rw [groupOf, symbol, BitVec.add_comm, BitVec.sub_add_cancel]

/-- SYM_w of a w-bit group is in COD(w) (30_encoding.md R80, R81). -/
theorem inCod_symbol (w : Width) (g : Byte) (h : g.toNat < 2 ^ widthBits w) : inCod w (symbol g) = true := by
  have hw : 2 ^ widthBits w ≤ 4 := by cases w <;> decide
  have hs : (symbol g).toNat = 28 + g.toNat := by
    rw [symbol, baseByte, BitVec.toNat_add, BitVec.toNat_ofNat]
    omega
  rw [inCod_iff]
  omega

theorem groupOf_w1 (b : Byte) (h : inCod .w1 b = true) : groupOf b = b &&& 1#8 := by
  obtain rfl | rfl : b = 0x1C#8 ∨ b = 0x1D#8 := by simpa using (inCod_w1_iff_mem b).mp h
  · rfl
  · rfl

theorem groupOf_w2 (b : Byte) (h : inCod .w2 b = true) : groupOf b = b &&& 3#8 := by
  obtain rfl | rfl | rfl | rfl : b = 0x1C#8 ∨ b = 0x1D#8 ∨ b = 0x1E#8 ∨ b = 0x1F#8 := by
    simpa using (inCod_w2_iff_mem b).mp h
  all_goals rfl

/-- Settles O4: both maps shift by BASE, and the bits of BASE in the group's place are 0. -/
theorem groupsAndSymbolsAreInverse : Obligations.GroupsAndSymbolsAreInverse := by
  refine ⟨fun w g hg => ⟨inCod_symbol w g hg, groupOf_symbol g⟩, fun w b hb => ⟨symbol_groupOf b, rfl, ?_⟩⟩
  cases w with
  | w1 => exact groupOf_w1 b hb
  | w2 => exact groupOf_w2 b hb

/-! Beats -/

theorem tokenOfBeat_append (e : BitVec 1) (d : Byte) :
    tokenOfBeat (e ++ d) = if e = 1#1 then .eos else .byte d := by
  have he : (e ++ d).extractLsb' 8 1 = e := BitVec.extractLsb'_append_eq_left
  have hd : (e ++ d).extractLsb' 0 8 = d := BitVec.extractLsb'_append_eq_right
  rw [tokenOfBeat, he, hd]

/-- Settles O6: bit 8 of a beat says whether it ends the stream. -/
theorem beatsCarryTokens : Obligations.BeatsCarryTokens :=
  ⟨fun b => tokenOfBeat_append 0#1 b, fun d => tokenOfBeat_append 1#1 d, fun _ => rfl, by decide⟩

end Sys2Proof.Machine
end

section
/-! PROOFS. The byte rows of the opcode table under UNPACK (30_encoding.md R80, R84, 40_pack_unpack.md R116). -/

namespace Sys2Proof.Machine

open Sys2Proof.Claims

/-- The latched pipeline is that of the command whose word CMD holds. -/
theorem latchedPipeline_of_encode (s : State) (c : Instr) (h : encode c = .cmd s.cmd) :
    latchedPipeline s = pipelineOf c := by
  rw [latchedPipeline, decodeCmd_of_encode c s.cmd h]

/-- While BUSY a byte row is the latched command's Consume step on its byte (log 5). -/
theorem exec_row_busy (i c : Instr) (b : Byte) (stages : List Stage) (s : State) (hi : encode i = .byte b)
    (hb : s.seq = .busy) (hc : encode c = .cmd s.cmd) (hp : pipelineOf c = some stages) :
    exec i s = .next (consumeThrough Config.params stages (.byte b) s) := by
  rw [exec_row i b hi, streamByte_busy b s stages hb ((latchedPipeline_of_encode s c hc).trans hp)]

/-- The 4-bit count is 8 exactly when the number of bits is (log 14). -/
theorem nb_full_iff (w : Width) (n : BitVec 3) :
    n.setWidth 4 + BitVec.ofNat 4 (widthBits w) = 8#4 ↔ n.toNat + widthBits w = 8 := by
  revert n
  cases w <;> decide

theorem nb_next_eq (w : Width) (n : BitVec 3) :
    (n.setWidth 4 + BitVec.ofNat 4 (widthBits w)).setWidth 3 = BitVec.ofNat 3 (n.toNat + widthBits w) := by
  revert n
  cases w <;> decide

/-- UNPACK on an alphabet byte: its group is shifted into ACC, and the eighth bit emits the byte (40_pack_unpack.md
R116). -/
theorem consume_unpack_symbol (P : Params) (w : Width) (b : Byte) (s : State) (h : inCod w b = true) :
    consumeThrough P (unpackPipeline w) (.byte b) s =
      if s.nb.toNat + widthBits w = 8 then
        { s with acc := 0#8, nb := 0#3, outH := s.outH ++ [.byte ((s.acc <<< widthBits w) ||| groupOf b)] }
      else
        { s with
          acc := (s.acc <<< widthBits w) ||| groupOf b
          nb := BitVec.ofNat 3 (s.nb.toNat + widthBits w) } := by
  simp only [consume_unpack_byte, h, if_true, nb_full_iff, nb_next_eq]

/-- UNPACK on a byte that is no alphabet byte: it is ignored (40_pack_unpack.md R116). -/
theorem consume_unpack_noise (P : Params) (w : Width) (b : Byte) (s : State) (h : inCod w b = false) :
    consumeThrough P (unpackPipeline w) (.byte b) s = s := by
  simp [consume_unpack_byte, h]

/-- A row of the alphabet has its byte for code, and that is an alphabet byte of its width and group. -/
theorem alphabetTable_row : ∀ r ∈ alphabetTable,
    encode r.1 = .byte r.2.2.2 ∧ inCod r.2.1 r.2.2.2 = true ∧ groupOf r.2.2.2 = r.2.2.1 := by
  decide

/-- Settles O27: a symbol row is UNPACK on an alphabet byte, the marker row on another byte. -/
theorem symbolsShiftTheirBitsIn : Obligations.SymbolsShiftTheirBitsIn := by
  constructor
  · rintro ⟨i, w, g, b⟩ hr s hb hu -
    obtain ⟨hi, hc, hg⟩ := alphabetTable_row _ hr
    simp only at hi hc hg hu ⊢
    rw [exec_row_busy i (.unpack w) b _ s hi hb hu rfl, consume_unpack_symbol _ w b s hc, hg]
    split <;> rfl
  · intro w s hb hu
    rw [exec_row_busy .marker (.unpack w) markerByte _ s rfl hb hu rfl, consume_unpack_noise _ w _ s (inCod_marker w)]

end Sys2Proof.Machine
end

section
/-! PROOFS. The contracts of the packer and the unpacker (40_pack_unpack.md R110, R112, R115, R118, R119, R121): the
symbols of a byte carry its bits in groups, and bits are cut into bytes. -/

namespace Sys2Proof.Machine

open Sys2Proof.Claims

/-! Groups of a byte (30_encoding.md R88) -/

theorem bitVal_getLsbD (b : Byte) (k : Nat) : bitVal (b.getLsbD k) = b.toNat / 2 ^ k % 2 := by
  simp only [bitVal, BitVec.getLsbD, Nat.testBit_eq_decide_div_mod_eq, decide_eq_true_eq]
  split <;> omega

/-- A width-1 group is one bit. -/
theorem groupAt_w1 (b : Byte) (i : Nat) : groupAt .w1 b i = BitVec.ofNat 8 (bitVal (b.getLsbD (7 - i))) := by
  apply BitVec.eq_of_toNat_eq
  simp only [groupAt, bitVal_getLsbD, BitVec.toNat_setWidth, BitVec.extractLsb'_toNat, BitVec.toNat_ofNat,
    Nat.shiftRight_eq_div_pow]

/-- A width-2 group is two bits, the earlier one more significant. -/
theorem groupAt_w2 (b : Byte) (i : Nat) :
    groupAt .w2 b i = BitVec.ofNat 8 (2 * bitVal (b.getLsbD (6 - 2 * i + 1)) + bitVal (b.getLsbD (6 - 2 * i))) := by
  apply BitVec.eq_of_toNat_eq
  simp only [groupAt, bitVal_getLsbD, BitVec.toNat_setWidth, BitVec.extractLsb'_toNat, BitVec.toNat_ofNat,
    Nat.shiftRight_eq_div_pow, Nat.pow_succ, ← Nat.div_div_eq_div_mul]
  omega

/-- A width-2 group is the byte shifted down and masked. -/
theorem groupAt_w2_eq_and (b : Byte) (i : Nat) : groupAt .w2 b i = (b >>> (6 - 2 * i)) &&& 3#8 := by
  apply BitVec.eq_of_toNat_eq
  have hmask : (b.toNat >>> (6 - 2 * i)) &&& 3 = (b.toNat >>> (6 - 2 * i)) % 4 :=
    Nat.and_two_pow_sub_one_eq_mod _ 2
  simp only [groupAt, BitVec.toNat_setWidth, BitVec.extractLsb'_toNat, BitVec.toNat_and, BitVec.toNat_ushiftRight,
    BitVec.toNat_ofNat, Nat.reducePow, Nat.reduceMod, hmask]
  omega

theorem ofNat_bitVal (t : Bool) : BitVec.ofNat 8 (bitVal t) = if t then 1#8 else 0#8 := by
  cases t <;> rfl

/-- The packer's symbols of a byte, as the rule writes them out (40_pack_unpack.md R111). -/
theorem symbolsOf_eq_packedByte (w : Width) (b : Byte) : symbolsOf w b = packedByte w b := by
  cases w with
  | w1 =>
    simp only [symbolsOf, packedByte, groupAt_w1, ofNat_bitVal]
    rfl
  | w2 =>
    simp only [symbolsOf, packedByte, groupAt_w2_eq_and]
    rfl

theorem length_symbolsOf (w : Width) (b : Byte) : (symbolsOf w b).length = 8 / widthBits w := by
  rw [symbolsOf, List.length_map, List.length_range]

theorem inCod_of_mem_symbolsOf (w : Width) (b c : Byte) (h : c ∈ symbolsOf w b) : inCod w c = true := by
  obtain ⟨i, -, rfl⟩ := List.mem_map.mp h
  exact inCod_symbol w _ (groupAt_lt w b i)

/-- The symbols of a byte carry its bits. -/
theorem groupBits_symbolsOf (w : Width) (b : Byte) :
    ((symbolsOf w b).flatMap fun c => groupBits w (groupOf c)) = bits8 b := by
  rw [symbolsOf, List.flatMap_map]
  simp only [groupOf_symbol]
  cases w <;> simp [groupBits, groupAt, bits8, widthBits, List.range_succ]

/-! pack (40_pack_unpack.md R110) -/

/-- A byte's bits in front of a bit sequence are its groups in front of the sequence's groups. -/
theorem map_groups_bits8_append (w : Width) (b : Byte) (t : Bits) :
    ((groups w (bits8 b ++ t)).map fun g => symbol (BitVec.ofNat 8 g)) =
      symbolsOf w b ++ (groups w t).map fun g => symbol (BitVec.ofNat 8 g) := by
  cases w with
  | w1 =>
    simp only [symbolsOf, groupAt_w1]
    rfl
  | w2 =>
    simp only [symbolsOf, groupAt_w2]
    rfl

/-- Packing goes byte by byte (40_pack_unpack.md R110, R111). -/
theorem pack_eq_flatMap (w : Width) (x : Bytes) : pack w x = x.flatMap (symbolsOf w) := by
  induction x with
  | nil => cases w <;> rfl
  | cons b x ih => rw [pack, bitsOf_cons, map_groups_bits8_append, ← pack, ih, List.flatMap_cons]

theorem inCod_of_mem_pack (w : Width) (x : Bytes) (c : Byte) (h : c ∈ pack w x) : inCod w c = true := by
  rw [pack_eq_flatMap, List.mem_flatMap] at h
  obtain ⟨b, -, hc⟩ := h
  exact inCod_of_mem_symbolsOf w b c hc

theorem length_pack (w : Width) (x : Bytes) : (pack w x).length = 8 / widthBits w * x.length := by
  simp [pack_eq_flatMap, List.length_flatMap, length_symbolsOf, Nat.mul_comm]

theorem pack_append (w : Width) (x y : Bytes) : pack w (x ++ y) = pack w x ++ pack w y := by
  simp only [pack_eq_flatMap, List.flatMap_append]

/-! The bits that alphabet bytes carry (40_pack_unpack.md R115) -/

@[simp] theorem kept_kept (w : Width) (s : Bytes) : kept w (kept w s) = kept w s := by
  simp [kept, List.filter_filter]

theorem kept_eq_self (w : Width) (s : Bytes) (h : ∀ b ∈ s, inCod w b = true) : kept w s = s :=
  List.filter_eq_self.mpr h

theorem kept_eq_nil (w : Width) (s : Bytes) (h : ∀ b ∈ s, inCod w b = false) : kept w s = [] :=
  List.filter_eq_nil_iff.mpr fun b hb => by simp [h b hb]

@[simp] theorem kept_pack (w : Width) (x : Bytes) : kept w (pack w x) = pack w x :=
  kept_eq_self w _ (inCod_of_mem_pack w x)

theorem length_groupBits (w : Width) (g : Byte) : (groupBits w g).length = widthBits w := by
  cases w <;> rfl

theorem length_payloadBits (w : Width) (s : Bytes) :
    (payloadBits w s).length = widthBits w * (kept w s).length := by
  simp [payloadBits, List.length_flatMap, length_groupBits, Nat.mul_comm]

theorem payloadBits_symbol (w : Width) (b : Byte) (h : inCod w b = true) :
    payloadBits w [b] = groupBits w (groupOf b) := by
  simp [payloadBits, kept, h]

theorem payloadBits_noise (w : Width) (b : Byte) (h : inCod w b = false) : payloadBits w [b] = [] := by
  simp [payloadBits, kept, h]

theorem payloadBits_pack (w : Width) (x : Bytes) : payloadBits w (pack w x) = bitsOf x := by
  rw [payloadBits, kept_pack, pack_eq_flatMap, List.flatMap_assoc]
  simp only [groupBits_symbolsOf, bitsOf]

/-- What is unpacked depends on the alphabet bytes alone (40_pack_unpack.md R118). -/
theorem unpack_eq_of_kept_eq (w : Width) (s t : Bytes) (h : kept w s = kept w t) : unpack w s = unpack w t := by
  rw [unpack, unpack, payloadBits, payloadBits, h]

/-! Bits cut into bytes (30_encoding.md R88) -/

theorem byteOf_bits (b : Byte) :
    byteOf (b.getLsbD 7) (b.getLsbD 6) (b.getLsbD 5) (b.getLsbD 4) (b.getLsbD 3) (b.getLsbD 2) (b.getLsbD 1)
      (b.getLsbD 0) = b := by
  revert b
  decide

@[simp] theorem bytesOf_byte (t7 t6 t5 t4 t3 t2 t1 t0 : Bool) (r : Bits) :
    bytesOf (t7 :: t6 :: t5 :: t4 :: t3 :: t2 :: t1 :: t0 :: r) = byteOf t7 t6 t5 t4 t3 t2 t1 t0 :: bytesOf r := rfl

/-- Bytes come back from their bits. -/
theorem bytesOf_bitsOf (x : Bytes) : bytesOf (bitsOf x) = x := by
  induction x with
  | nil => rfl
  | cons b x ih =>
    rw [bitsOf_cons]
    exact congrArg₂ List.cons (byteOf_bits b) ih

/-- A bit sequence with no complete byte in front is shorter than a byte: the second case of `bytesOf`. -/
theorem length_lt_of_no_byte (t : Bits)
    (h : ∀ t7 t6 t5 t4 t3 t2 t1 t0 r, t = t7 :: t6 :: t5 :: t4 :: t3 :: t2 :: t1 :: t0 :: r → False) :
    t.length < 8 := by
  rcases t with _ | ⟨_, _ | ⟨_, _ | ⟨_, _ | ⟨_, _ | ⟨_, _ | ⟨_, _ | ⟨_, _ | ⟨_, r⟩⟩⟩⟩⟩⟩⟩⟩
  case cons.cons.cons.cons.cons.cons.cons.cons => exact (h _ _ _ _ _ _ _ _ _ rfl).elim
  all_goals simp

theorem bytesOf_of_length_lt (t : Bits) (h : t.length < 8) : bytesOf t = [] := by
  unfold bytesOf
  split
  next =>
    simp only [List.length_cons] at h
    omega
  next => rfl

/-- Eight bits are the byte of their value. -/
theorem bytesOf_of_length_eq (t : Bits) (h : t.length = 8) : bytesOf t = [BitVec.ofNat 8 (bitsVal t)] := by
  unfold bytesOf
  split
  next t7 t6 t5 t4 t3 t2 t1 t0 r =>
    obtain rfl : r = [] := List.eq_nil_of_length_eq_zero (by simpa using h)
    simp only [bytesOf_nil, byteOf, bitsVal, List.foldl]
    congr 2
    ring
  next ht => exact absurd h (Nat.ne_of_lt (length_lt_of_no_byte t ht))

theorem length_bytesOf (t : Bits) : (bytesOf t).length = t.length / 8 := by
  induction t using bytesOf.induct with
  | case1 t7 t6 t5 t4 t3 t2 t1 t0 r ih =>
    simp only [bytesOf_byte, List.length_cons, ih]
    omega
  | case2 t h =>
    have ht := length_lt_of_no_byte t h
    rw [bytesOf_of_length_lt t ht, List.length_nil, Nat.div_eq_of_lt ht]

/-- At a whole number of bytes a bit sequence can be cut. -/
theorem bytesOf_append (t u : Bits) (h : 8 ∣ t.length) : bytesOf (t ++ u) = bytesOf t ++ bytesOf u := by
  induction t using bytesOf.induct with
  | case1 t7 t6 t5 t4 t3 t2 t1 t0 r ih =>
    have hr : 8 ∣ r.length := by simpa using h
    simp only [List.cons_append, bytesOf_byte, ih hr]
  | case2 t ht =>
    have hn : t.length = 0 := Nat.eq_zero_of_dvd_of_lt h (length_lt_of_no_byte t ht)
    rw [List.eq_nil_of_length_eq_zero hn]
    rfl

/-! The statements -/

theorem unpack_pack (w : Width) (x : Bytes) : unpack w (pack w x) = x := by
  rw [unpack, payloadBits_pack, bytesOf_bitsOf]

/-- Settles O40: the payload of a packed sequence is its bits. A zero byte comes back as two bytes or as none at the
other width. -/
theorem unpackInvertsPack : Obligations.UnpackInvertsPack := by
  refine ⟨unpack_pack, fun w x s h => ?_, fun w w' h => ⟨[0x00#8], ?_⟩⟩
  · rw [unpack_eq_of_kept_eq w s (pack w x) (h.trans (kept_pack w x).symm), unpack_pack]
  · revert h
    cases w <;> cases w' <;> decide

/-- Settles O41: packing goes byte by byte, and unpacking is its left inverse. -/
theorem packLengthAlphabetAndConcatenation : Obligations.PackLengthAlphabetAndConcatenation := by
  intro w
  refine ⟨fun x => ?_, inCod_of_mem_pack w, ?_, pack_append w⟩
  · rw [length_pack]
    cases w <;> simp only [widthBits] <;> omega
  · exact Function.LeftInverse.injective (unpack_pack w)

/-- Settles O42: the payload has w bits for each alphabet byte. A symbol in front of seven zero symbols moves each of
them across a byte boundary. -/
theorem unpackLengthAndConcatenation : Obligations.UnpackLengthAndConcatenation := by
  intro w
  refine ⟨fun s => ?_, fun s t h => ?_, [0x1C#8], List.replicate 7 0x1C#8, ?_⟩
  · rw [unpack, length_bytesOf, length_payloadBits]
  · rw [unpack, payloadBits_append, bytesOf_append _ _ (by rwa [length_payloadBits]), unpack, unpack]
  · cases w <;> decide

end Sys2Proof.Machine
end

section
/-! PROOFS. One token of PACK and of UNPACK (40_pack_unpack.md R111, R116, R118). -/

namespace Sys2Proof.Machine

open Sys2Proof.Claims

/-- A stream command that is BUSY takes the token on offer through its pipeline. -/
theorem exec_stream_token (i : Instr) (stages : List Stage) (hi : pipelineOf i = some stages) (s : State) (tok : Token)
    (q : List Token) (hb : s.seq = .busy) (hq : s.inq = tok :: q) :
    exec i s = .next (consumeThrough Config.params stages tok { s with inq := q }) := by
  obtain ⟨v, -, hx⟩ := exec_stream i stages hi
  rw [hx, streamCommand_token v stages s tok q hb hq]

/-- Settles O18, a clause for each kind of token. -/
theorem packConsumesOneToken : Obligations.PackConsumesOneToken := by
  refine ⟨by decide, fun w s b q hb hq => ?_, fun w s q hb hq => ?_⟩
  · rw [exec_stream_token (.pack w) _ rfl s _ q hb hq, consume_pack_byte, symbolsOf_eq_packedByte]
  · exact exec_stream_token (.pack w) _ rfl s _ q hb hq

theorem exec_unpack_noise (w : Width) (s : State) (b : Byte) (q : List Token) (hb : s.seq = .busy)
    (hq : s.inq = .byte b :: q) (hc : inCod w b = false) : exec (.unpack w) s = .next { s with inq := q } := by
  rw [exec_stream_token (.unpack w) _ rfl s _ q hb hq, consume_unpack_noise _ w b _ hc]

/-- Settles O19: an alphabet byte is one in the range of `inCod_iff`. -/
theorem unpackConsumesOneToken : Obligations.UnpackConsumesOneToken := by
  refine ⟨by decide, fun w s b q hb hq _ hr => ?_, fun w s b q hb hq hr => ?_, fun w s q hb hq => ?_⟩
  · rw [exec_stream_token (.unpack w) _ rfl s _ q hb hq, consume_unpack_symbol _ w b _ ((inCod_iff w b).mpr hr)]
    split <;> rfl
  · exact exec_unpack_noise w s b q hb hq (Bool.eq_false_iff.mpr fun h => hr ((inCod_iff w b).mp h))
  · exact exec_stream_token (.unpack w) _ rfl s _ q hb hq

/-- Settles O43: UNPACK ignores noise, and the contract depends on the alphabet bytes alone. A stray 0x1C in front of
a packed 0xFF puts a zero bit at the head of the payload. -/
theorem noiseDoesNotChangeUnpack : Obligations.NoiseDoesNotChangeUnpack := by
  refine ⟨exec_unpack_noise, fun w s => ?_, fun w s t n hn => ?_, by decide, fun w => ⟨0x1C#8, [0xFF#8], ?_⟩⟩
  · exact unpack_eq_of_kept_eq w s (kept w s) (kept_kept w s).symm
  · apply unpack_eq_of_kept_eq
    simp [kept_eq_nil w n hn]
  · cases w <;> decide

end Sys2Proof.Machine
end

section
/-! PROOFS. Whole operations: a run of one is the start, the bytes through the pipeline one by one, and END through
the pipeline (43_composite_control.md R179 to R181). -/

namespace Sys2Proof.Machine

open Sys2Proof.Claims

/-- `s` with `q` on offer at IN and the host's moves `m` ahead. -/
def withHost (q : List Token) (m : List HostMove) (s : State) : State := { s with inq := q, script := m }

/-- What a pipeline makes of `s` on the bytes of `x`, one Consume step each. -/
def consumeBytes (P : Params) (stages : List Stage) (x : Bytes) (s : State) : State :=
  x.foldl (fun t b => consumeThrough P stages (.byte b) t) s

section

variable (P : Params) (stages : List Stage)

@[simp] theorem consumeBytes_nil (s : State) : consumeBytes P stages [] s = s := rfl

@[simp] theorem consumeBytes_cons (b : Byte) (x : Bytes) (s : State) :
    consumeBytes P stages (b :: x) s = consumeBytes P stages x (consumeThrough P stages (.byte b) s) := rfl

theorem consumeBytes_concat (x : Bytes) (b : Byte) (s : State) :
    consumeBytes P stages (x ++ [b]) s = consumeThrough P stages (.byte b) (consumeBytes P stages x s) :=
  List.foldl_concat ..

end

section

variable {i : Instr} {stages : List Stage} (hi : pipelineOf i = some stages)

include hi

theorem ne_clr_of_pipelineOf : i ≠ .clr := by
  rintro rfl
  cases hi

/-- Bytes leave STATE and CMD alone (10_state.md R24, R31). -/
theorem consumeBytes_keeps (P : Params) (x : Bytes) (s : State) :
    (consumeBytes P stages x s).seq = s.seq ∧ (consumeBytes P stages x s).cmd = s.cmd := by
  induction x generalizing s with
  | nil => exact ⟨rfl, rfl⟩
  | cons b x ih =>
    obtain ⟨hs, hc⟩ := ih (consumeThrough P stages (.byte b) s)
    exact ⟨hs.trans (consume_byte_seq P s b i stages hi), hc.trans (consume_keeps P s i stages hi (.byte b)).1⟩

theorem consumeThrough_withHost (P : Params) (tok : Token) (q : List Token) (m : List HostMove) (s : State) :
    consumeThrough P stages tok (withHost q m s) = withHost q m (consumeThrough P stages tok s) := by
  obtain ⟨-, hf, -, -, hr⟩ := consume_keeps P s i stages hi tok
  refine (consumeThrough_host P i stages hi tok s q m s.readH s.busywr).trans ?_
  rw [withHost, ← hr, ← hf]

/-- A hand-over that is enabled takes the token at the head of IN through the latched pipeline. -/
theorem step_withHost (tok : Token) (q : List Token) (m : List HostMove) (s : State) (hb : s.seq = .busy)
    (hp : latchedPipeline s = some stages) :
    step (withHost (tok :: q) (.consume :: m) s) =
      .next (withHost q m (consumeThrough Config.params stages tok s)) := by
  rw [step_consume (withHost (tok :: q) (.consume :: m) s) stages tok q m rfl hb hp rfl]
  exact congrArg _ (consumeThrough_withHost hi Config.params tok q m s)

/-- A BUSY block takes the bytes on offer through the latched pipeline one by one. -/
theorem run_consumeBytes (x : Bytes) (q : List Token) (m : List HostMove) (s : State) (hb : s.seq = .busy)
    (hp : latchedPipeline s = some stages) :
    Host.Core.run Sys2Proof.core x.length
        (withHost (x.map .byte ++ q) (List.replicate x.length .consume ++ m) s) =
      .next (withHost q m (consumeBytes Config.params stages x s)) := by
  induction x generalizing s with
  | nil => exact run_zero _
  | cons b x ih =>
    obtain ⟨hs, hc⟩ := consumeBytes_keeps hi Config.params [b] s
    exact (run_next _ _ _ (step_withHost hi (.byte b) _ _ s hb hp)).trans
      (ih _ (hs.trans hb) ((latchedPipeline_cmd _ _ hc).trans hp))

variable {v : Word} {moves : List HostMove} {more : List Token} {s : State} (he : encode i = .cmd v)

include he

theorem latchedPipeline_consumeBytes_started (x : Bytes) :
    latchedPipeline (consumeBytes Config.params stages x (started v .busy .none s)) = some stages := by
  obtain ⟨-, hc⟩ := consumeBytes_keeps hi Config.params x (started v .busy .none s)
  exact (latchedPipeline_of_encode _ i (he.trans (congrArg _ hc.symm))).trans hi

/-- The first move of an operation starts it (10_state.md R27, R31). -/
theorem step_of_ahead (x : Bytes) (h : Ahead v x moves more s) :
    step s = .next (withHost (inputStream x ++ more) (List.replicate (x.length + 1) .consume ++ moves)
      (started v .busy .none s)) := by
  obtain ⟨hb, hm, hq⟩ := h
  rw [step_move s _ _ hm, ← hq]
  exact (writeCmd_legal v i { s with script := List.replicate (x.length + 1) .consume ++ moves } hb
    (decodeCmd_of_encode i v he)).trans (exec_stream_free i v _ hb (ne_clr_of_pipelineOf hi) he)

/-- An operation in the middle: the bytes of its front are consumed, the rest of the operation is ahead. -/
theorem run_front_of_ahead (p r : Bytes) (h : Ahead v (p ++ r) moves more s) :
    Host.Core.run Sys2Proof.core (p.length + 1) s =
      .next (withHost (inputStream r ++ more) (List.replicate (r.length + 1) .consume ++ moves)
        (consumeBytes Config.params stages p (started v .busy .none s))) := by
  have hq : inputStream (p ++ r) ++ more = p.map .byte ++ (inputStream r ++ more) := by simp [inputStream]
  have hm : List.replicate ((p ++ r).length + 1) HostMove.consume ++ moves =
      List.replicate p.length .consume ++ (List.replicate (r.length + 1) .consume ++ moves) := by
    rw [List.length_append, Nat.add_assoc, List.replicate_add, List.append_assoc]
  rw [run_next _ _ _ (step_of_ahead hi he _ h), hq, hm]
  exact run_consumeBytes hi p _ _ _ rfl (latchedPipeline_consumeBytes_started hi he [])

/-- A whole operation: after the bytes of the input END goes through the pipeline. -/
theorem runOperation_of_ahead (x : Bytes) (h : Ahead v x moves more s) :
    runOperation x s =
      .next (withHost more moves (consumeThrough Config.params stages .eos
        (consumeBytes Config.params stages x (started v .busy .none s)))) := by
  have hrun := run_front_of_ahead hi he x [] (by rwa [List.append_nil])
  obtain ⟨hb, -⟩ := consumeBytes_keeps hi Config.params x (started v .busy .none s)
  have hend := step_withHost hi .eos more moves _ hb (latchedPipeline_consumeBytes_started hi he x)
  exact (run_add (x.length + 1) 1 s _ hrun).trans ((run_next 0 _ _ hend).trans (run_zero _))

end

/-- The successful end of an operation that put the bytes `y` on OUT and has left its working registers clear. -/
theorem finish_eq_afterOperation (v : Word) (y : Bytes) (moves : List HostMove) (more : List Token) (s : State) :
    withHost more moves (finish { started v .busy .none s with outH := s.outH ++ y.map .byte }) =
      afterOperation v y .none 0#32 0#32 moves more s := by
  simp only [withHost, finish, outPut, started, afterOperation, outputStream, List.append_assoc, if_true]

end Sys2Proof.Machine
end

section
/-! PROOFS. Whole operations of PACK (40_pack_unpack.md R114) and of UNPACK (R120): the accumulator holds the payload
bits that do not make up a byte yet. -/

namespace Sys2Proof.Machine

open Sys2Proof.Claims

/-! PACK -/

/-- What PACK makes of a block on a sequence of bytes: their packed form is on OUT. -/
theorem consumeBytes_pack (P : Params) (w : Width) (x : Bytes) (s : State) :
    consumeBytes P (packPipeline w) x s = { s with outH := s.outH ++ (pack w x).map .byte } := by
  rw [pack_eq_flatMap]
  induction x generalizing s with
  | nil => simp
  | cons b x ih => simp [ih, consume_pack_byte]

/-- Settles O33: the packed bytes are on OUT when END comes. -/
theorem packOperationEmitsPack : Obligations.PackOperationEmitsPack := by
  intro w x v moves more s he h
  rw [runOperation_of_ahead (i := .pack w) rfl he x h, consumeBytes_pack, consume_pack_eos]
  exact congrArg _ (finish_eq_afterOperation v (pack w x) moves more s)

/-! Bits as a number (10_state.md R25) -/

theorem bitsVal_append (t u : Bits) : bitsVal (t ++ u) = bitsVal t * 2 ^ u.length + bitsVal u := by
  induction u using List.reverseRecOn with
  | nil => simp [bitsVal]
  | append_singleton u b ih =>
    rw [← List.append_assoc]
    simp only [bitsVal, List.foldl_append, List.foldl_cons, List.foldl_nil, List.length_append, List.length_cons,
      List.length_nil] at ih ⊢
    rw [ih]
    ring

theorem bitsVal_lt (t : Bits) : bitsVal t < 2 ^ t.length := by
  induction t using List.reverseRecOn with
  | nil => decide
  | append_singleton t b ih =>
    have hb : bitsVal [b] < 2 := by cases b <;> decide
    rw [bitsVal_append, List.length_append, List.length_singleton, Nat.pow_succ]
    omega

theorem bitsVal_groupBits (w : Width) (g : Byte) (h : g.toNat < 2 ^ widthBits w) :
    bitsVal (groupBits w g) = g.toNat := by
  revert g
  cases w <;> decide

theorem twoPow_width (w : Width) : BitVec.twoPow 8 (widthBits w) = BitVec.ofNat 8 (2 ^ widthBits w) := by
  cases w <;> rfl

/-- A group shifted into the accumulator, on numbers: the group's place is free, so the `or` is a sum. -/
theorem shiftIn_ofNat (w : Width) (n : Nat) (g : Byte) (h : g.toNat < 2 ^ widthBits w) :
    (BitVec.ofNat 8 n <<< widthBits w) ||| g = BitVec.ofNat 8 (n * 2 ^ widthBits w + g.toNat) := by
  have hand : (BitVec.ofNat 8 n <<< widthBits w) &&& g = 0#8 := by
    ext i hi
    by_cases hw : i < widthBits w
    · simp [hw]
    · have hg : g.toNat.testBit i = false :=
        Nat.testBit_lt_two_pow (h.trans_le (Nat.pow_le_pow_right (by decide) (Nat.le_of_not_lt hw)))
      rw [BitVec.getElem_and, BitVec.getElem_eq_testBit_toNat g i hi, hg, Bool.and_false, BitVec.getElem_zero]
  rw [← BitVec.add_eq_or_of_and_eq_zero _ _ hand, BitVec.shiftLeft_eq_mul_twoPow, twoPow_width, BitVec.ofNat_add,
    BitVec.ofNat_mul, BitVec.ofNat_toNat, BitVec.setWidth_eq]

/-! The unpacker's state in the middle of an operation (10_state.md R25) -/

/-- `s` with the bits `c` emitted as bytes on OUT and the bits `u` held in the accumulator. -/
def takenIn (c u : Bits) (s : State) : State :=
  { s with
    acc := BitVec.ofNat 8 (bitsVal u), nb := BitVec.ofNat 3 u.length
    outH := s.outH ++ (bytesOf c).map .byte }

/-- The bits `t` in two parts: `c` makes up whole bytes, and `u` is whole groups of width `w`, less than a byte. -/
structure SplitAtByte (w : Width) (t c u : Bits) : Prop where
  bits : t = c ++ u
  whole : 8 ∣ c.length
  groups : widthBits w ∣ u.length
  short : u.length < 8

theorem toNat_ofNat_length (u : Bits) (h : u.length < 8) : (BitVec.ofNat 3 u.length).toNat = u.length :=
  Nat.mod_eq_of_lt h

theorem length_append_groupBits (w : Width) (u : Bits) (g : Byte) :
    (u ++ groupBits w g).length = u.length + widthBits w := by
  rw [List.length_append, length_groupBits]

section

variable {w : Width} {t c u : Bits} (h : SplitAtByte w t c u)

include h

theorem SplitAtByte.bytesOf_eq : bytesOf t = bytesOf c := by
  obtain ⟨rfl, hc, -, hu⟩ := h
  rw [bytesOf_append c u hc, bytesOf_of_length_lt u hu, List.append_nil]

theorem SplitAtByte.length_eq : u.length = t.length % 8 := by
  obtain ⟨rfl, hc, -, hu⟩ := h
  rw [List.length_append]
  omega

theorem SplitAtByte.drop_eq : t.drop (t.length - u.length) = u := by
  obtain ⟨rfl, -⟩ := h
  rw [List.length_append, Nat.add_sub_cancel, List.drop_left]

/-- An alphabet byte takes its group in behind the bits that were taken in before (40_pack_unpack.md R116). -/
theorem SplitAtByte.consume_symbol (P : Params) (b : Byte) (s : State) (hb : inCod w b = true) :
    consumeThrough P (unpackPipeline w) (.byte b) (takenIn c u s) =
      if u.length + widthBits w = 8 then takenIn (c ++ (u ++ groupBits w (groupOf b))) [] s
      else takenIn c (u ++ groupBits w (groupOf b)) s := by
  have hg := groupOf_lt w b hb
  have hacc : (BitVec.ofNat 8 (bitsVal u) <<< widthBits w) ||| groupOf b =
      BitVec.ofNat 8 (bitsVal (u ++ groupBits w (groupOf b))) := by
    rw [shiftIn_ofNat w _ _ hg, bitsVal_append, length_groupBits, bitsVal_groupBits w _ hg]
  have hl := length_append_groupBits w u (groupOf b)
  rw [consume_unpack_symbol P w b _ hb]
  simp only [takenIn, toNat_ofNat_length u h.short, hacc, hl]
  split
  next h8 =>
    rw [bytesOf_append c _ h.whole, bytesOf_of_length_eq _ (hl.trans h8), List.map_append, ← List.append_assoc]
    rfl
  next => rfl

/-- One more group keeps the split: it completes the byte, or there is room for another. -/
theorem SplitAtByte.append_groupBits (g : Byte) :
    if u.length + widthBits w = 8 then SplitAtByte w (t ++ groupBits w g) (c ++ (u ++ groupBits w g)) []
    else SplitAtByte w (t ++ groupBits w g) c (u ++ groupBits w g) := by
  obtain ⟨rfl, hc, hw, hu⟩ := h
  have hl := length_append_groupBits w u g
  split
  next h8 =>
    refine ⟨by simp, ?_, by simp, by simp⟩
    rw [List.length_append, hl, h8]
    exact Nat.dvd_add hc (Nat.dvd_refl 8)
  next h8 =>
    refine ⟨by simp, hc, ?_, ?_⟩
    · rw [hl]
      exact Nat.dvd_add hw (Nat.dvd_refl _)
    · rw [hl]
      cases w <;> simp only [widthBits] at hw h8 ⊢ <;> omega

end

/-- What UNPACK makes of a block with an empty accumulator on a sequence of bytes: the complete bytes of their
payload are on OUT, and the other payload bits in the accumulator (40_pack_unpack.md R120). -/
theorem consumeBytes_unpack (P : Params) (w : Width) (x : Bytes) (s : State) (ha : s.acc = 0#8) (hn : s.nb = 0#3) :
    ∃ c u, SplitAtByte w (payloadBits w x) c u ∧ consumeBytes P (unpackPipeline w) x s = takenIn c u s := by
  induction x using List.reverseRecOn with
  | nil =>
    refine ⟨[], [], ⟨rfl, by simp, by simp, by simp⟩, ?_⟩
    simp [takenIn, bitsVal, ← ha, ← hn]
  | append_singleton x b ih =>
    obtain ⟨c, u, hsplit, hx⟩ := ih
    rw [consumeBytes_concat, hx, payloadBits_append]
    cases hb : inCod w b with
    | true =>
      have hnext := hsplit.append_groupBits (groupOf b)
      rw [payloadBits_symbol w b hb, hsplit.consume_symbol P b s hb]
      split at hnext
      next h8 => exact ⟨_, _, hnext, if_pos h8⟩
      next h8 => exact ⟨_, _, hnext, if_neg h8⟩
    | false =>
      rw [payloadBits_noise w b hb, List.append_nil, consume_unpack_noise P w b _ hb]
      exact ⟨c, u, hsplit, rfl⟩

/-- Settles O34: the complete bytes of the payload are those of its split, and END drops the bits left over. -/
theorem unpackOperationEmitsUnpack : Obligations.UnpackOperationEmitsUnpack := by
  intro w x v moves more s he h
  constructor
  · obtain ⟨c, u, hsplit, hx⟩ := consumeBytes_unpack Config.params w x (started v .busy .none s) rfl rfl
    rw [runOperation_of_ahead (i := .unpack w) rfl he x h, hx, consume_unpack_eos, unpack, hsplit.bytesOf_eq]
    exact congrArg _ (finish_eq_afterOperation v (bytesOf c) moves more s)
  · rintro p r rfl
    obtain ⟨c, u, hsplit, hx⟩ := consumeBytes_unpack Config.params w p (started v .busy .none s) rfl rfl
    have hnb := toNat_ofNat_length u hsplit.short
    refine ⟨_, run_front_of_ahead (i := .unpack w) rfl he p r h, ?_⟩
    rw [hx, unpack, hsplit.bytesOf_eq]
    refine ⟨rfl, rfl, ?_, ?_⟩
    · rw [← length_payloadBits, ← hsplit.length_eq]
      exact hnb
    · simp only [withHost, takenIn, hnb, hsplit.drop_eq]
      exact Nat.mod_eq_of_lt ((bitsVal_lt u).trans_le (Nat.pow_le_pow_right (by decide) hsplit.short.le))

end Sys2Proof.Machine
end

section
/-! PROOFS. The optional stage: one token of COMPRESS (41_compressor.md R133) and of DECOMPRESS (R134). -/

namespace Sys2Proof.Machine

open Sys2Proof.Claims

/-- The store's two cases are those of R132 as the statements write it, with the consumed token gone from IN. -/
theorem zStore_eq_stored (b : Byte) (q : List Token) (s : State) :
    zStore Config.params b { s with inq := q } = { stored b s with inq := q } := by
  unfold stored
  split
  next hr => exact zStore_room _ b _ hr
  next hr => exact zStore_full _ b _ (Bool.eq_false_iff.mpr hr)

/-- The successful end of an operation that put the bytes `y` on OUT. -/
theorem finish_outputStream (y : Bytes) (s : State) :
    finish { s with outH := s.outH ++ y.map .byte } =
      { s with seq := .done, outH := s.outH ++ outputStream y .none } := by
  simp only [finish, outPut, outputStream, List.append_assoc]

/-- Settles O22: a byte is stored, and END is judged by OVF. -/
theorem compressConsumesOneToken : Obligations.CompressConsumesOneToken := by
  refine ⟨by decide, fun s b q hb hq => ?_, fun s q hb hq => ?_⟩
  · rw [exec_stream_token .compress _ rfl s _ q hb hq, consume_compress_byte, zStore_eq_stored]
  · rw [exec_stream_token .compress _ rfl s _ q hb hq, consume_compress_eos]
    split
    next => rfl
    next =>
      exact congrArg Host.Outcome.next
        (finish_outputStream _ (reportSizes (Config.params.zc s.zbuf) { s with inq := q }))

/-- Settles O23: a byte is stored, and END is judged by OVF, then by Zd, then by the length of the result. -/
theorem decompressConsumesOneToken : Obligations.DecompressConsumesOneToken := by
  refine ⟨by decide, fun s b q hb hq => ?_, fun s q hb hq => ?_⟩
  · rw [exec_stream_token .decompress _ rfl s _ q hb hq, consume_decompress_byte, zStore_eq_stored]
  · rw [exec_stream_token .decompress _ rfl s _ q hb hq, consume_decompress_eos]
    split
    next => rfl
    next =>
      cases Config.params.zd s.zbuf with
      | none => rfl
      | some r =>
        simp only
        split
        next => exact congrArg Host.Outcome.next (finish_outputStream r { s with inq := q, zbuf := [] })
        next => rfl

end Sys2Proof.Machine
end

section
/-! PROOFS. Whole operations of the optional stage (41_compressor.md R139): what the buffer holds after a sequence of
bytes, within its capacity and beyond it (R132). -/

namespace Sys2Proof.Machine

open Sys2Proof.Claims

/-! A sequence of bytes into the buffer -/

theorem fits_succ (P : Params) (n : Nat) : P.fits (n + 1) = P.room n := by
  unfold Params.fits Params.room
  cases P.cap <;> rfl

theorem fits_of_fits_succ (P : Params) (n : Nat) (h : P.fits (n + 1) = true) : P.fits n = true := by
  unfold Params.fits at h ⊢
  cases hc : P.cap with
  | none => rfl
  | some c =>
    rw [hc] at h
    exact decide_eq_true (Nat.le_of_succ_le (of_decide_eq_true h))

/-- An overflow stays until END, whatever bytes follow (10_state.md R28). -/
theorem zStore_overflowed (P : Params) (b : Byte) (s : State) (h : s.ovf = true) :
    ∃ z, zStore P b s = { s with zbuf := z, ovf := true } := by
  cases hr : P.room s.zbuf.length with
  | true => exact ⟨s.zbuf ++ [b], (zStore_room P b s hr).trans (by rw [h])⟩
  | false => exact ⟨s.zbuf, zStore_full P b s hr⟩

section

variable {P : Params} {stages : List Stage} (hstore : ∀ b t, consumeThrough P stages (.byte b) t = zStore P b t)
  (x : Bytes) (s : State)

include hstore

/-- A sequence within the buffer's capacity is held as it came. -/
theorem consumeBytes_store_fits (hz : s.zbuf = []) (h : P.fits x.length = true) :
    consumeBytes P stages x s = { s with zbuf := x } := by
  induction x using List.reverseRecOn with
  | nil => rw [consumeBytes_nil, ← hz]
  | append_singleton x b ih =>
    rw [List.length_append, List.length_singleton] at h
    rw [consumeBytes_concat, ih (fits_of_fits_succ P _ h), hstore]
    exact zStore_room P b _ ((fits_succ P _).symm.trans h)

/-- A sequence beyond the buffer's capacity sets OVF: the first byte that does not fit does, and the flag stays. -/
theorem consumeBytes_store_overflow (hz : s.zbuf = []) (h : P.fits x.length = false) :
    ∃ z, consumeBytes P stages x s = { s with zbuf := z, ovf := true } := by
  induction x using List.reverseRecOn with
  | nil => cases (fits_zero P).symm.trans h
  | append_singleton x b ih =>
    rw [List.length_append, List.length_singleton] at h
    rw [consumeBytes_concat, hstore]
    cases hx : P.fits x.length with
    | true =>
      rw [consumeBytes_store_fits hstore x s hz hx]
      exact ⟨x, zStore_full P b _ ((fits_succ P _).symm.trans h)⟩
    | false =>
      obtain ⟨z, hs⟩ := ih hx
      rw [hs]
      exact zStore_overflowed P b _ rfl

end

/-! The ends of an operation -/

/-- An operation that ends in a fault leaves what R196 says, whatever the buffer held. -/
theorem enterFault_eq_afterOperation (v : Word) (c : ErrCode) (hc : c ≠ .none) (z : Bytes) (o : Bool)
    (moves : List HostMove) (more : List Token) (s : State) :
    withHost more moves (enterFault c { started v .busy .none s with zbuf := z, ovf := o }) =
      afterOperation v [] c 0#32 0#32 moves more s := by
  simp only [afterOperation, if_neg hc]
  rfl

section

variable {i : Instr} {stages : List Stage} (hi : pipelineOf i = some stages)
  (hstore : ∀ b t, consumeThrough Config.params stages (.byte b) t = zStore Config.params b t)
  {v : Word} (he : encode i = .cmd v) {x : Bytes} {moves : List HostMove} {more : List Token} {s : State}
  (h : Ahead v x moves more s)

include hi hstore he h

/-- An operation that buffers an input within the capacity: END finds the whole input in ZBUF. -/
theorem runOperation_of_fits (hf : Config.params.fits x.length = true) :
    runOperation x s = .next (withHost more moves (consumeThrough Config.params stages .eos
      { started v .busy .none s with zbuf := x })) := by
  rw [runOperation_of_ahead hi he x h, consumeBytes_store_fits hstore x _ rfl hf]

/-- An operation that buffers an input beyond the capacity ends in the fault OVERFLOW, and END(3) is all of its
output (60_exceptions.md R196). -/
theorem runOperation_of_overflow
    (hend : ∀ t, t.ovf = true → consumeThrough Config.params stages .eos t = enterFault .overflow t)
    (hf : Config.params.fits x.length = false) :
    runOperation x s = .next (afterOperation v [] .overflow 0#32 0#32 moves more s) := by
  obtain ⟨z, hz⟩ := consumeBytes_store_overflow hstore x (started v .busy .none s) rfl hf
  rw [runOperation_of_ahead hi he x h, hz, hend _ rfl]
  exact congrArg _ (enterFault_eq_afterOperation v .overflow (by decide) z true moves more s)

end

/-! COMPRESS and DECOMPRESS -/

section

variable {v : Word} {x : Bytes} {moves : List HostMove} {more : List Token} {s : State}

theorem compressOperation_of_fits (he : encode .compress = .cmd v) (h : Ahead v x moves more s)
    (hf : Config.params.fits x.length = true) :
    runOperation x s = .next (afterOperation v (Config.params.zc x) .none (sat32 x.length)
      (sat32 (Config.params.zc x).length) moves more s) := by
  rw [runOperation_of_fits (i := .compress) rfl (fun b t => consume_compress_byte _ t b) he h hf,
    consume_compress_eos]
  exact congrArg (Host.Outcome.next ∘ withHost more moves)
    (finish_outputStream _ (reportSizes (Config.params.zc x) { started v .busy .none s with zbuf := x }))

theorem compressOperation_of_overflow (he : encode .compress = .cmd v) (h : Ahead v x moves more s)
    (hf : Config.params.fits x.length = false) :
    runOperation x s = .next (afterOperation v [] .overflow 0#32 0#32 moves more s) :=
  runOperation_of_overflow (i := .compress) rfl (fun b t => consume_compress_byte _ t b) he h
    (fun t ht => (consume_compress_eos _ t).trans (if_pos ht)) hf

variable (he : encode .decompress = .cmd v) (h : Ahead v x moves more s)

include he h

theorem decompressOperation_of_overflow (hf : Config.params.fits x.length = false) :
    runOperation x s = .next (afterOperation v [] .overflow 0#32 0#32 moves more s) :=
  runOperation_of_overflow (i := .decompress) rfl (fun b t => consume_decompress_byte _ t b) he h
    (fun t ht => (consume_decompress_eos _ t).trans (if_pos ht)) hf

theorem decompressOperation_of_fail (hf : Config.params.fits x.length = true)
    (hz : Config.params.zd x = none) :
    runOperation x s = .next (afterOperation v [] .malformed 0#32 0#32 moves more s) := by
  rw [runOperation_of_fits (i := .decompress) rfl (fun b t => consume_decompress_byte _ t b) he h hf,
    consume_decompress_eos]
  simp only [started, Bool.false_eq_true, if_false, hz]
  exact congrArg _ (enterFault_eq_afterOperation v .malformed (by decide) x false moves more s)

theorem decompressOperation_of_result (hf : Config.params.fits x.length = true) {r : Bytes}
    (hz : Config.params.zd x = some r) :
    runOperation x s = .next (
      if Config.params.fits r.length then afterOperation v r .none 0#32 0#32 moves more s
      else afterOperation v [] .overflow 0#32 0#32 moves more s) := by
  rw [runOperation_of_fits (i := .decompress) rfl (fun b t => consume_decompress_byte _ t b) he h hf,
    consume_decompress_eos]
  simp only [started, Bool.false_eq_true, if_false, hz]
  split
  next => exact congrArg _ (finish_eq_afterOperation v r moves more s)
  next => exact congrArg _ (enterFault_eq_afterOperation v .overflow (by decide) x false moves more s)

end

/-- Settles O37: each clause by the checks of R199 in their order; on Zc(x) Zd's verdict is x, by the codec's law. -/
theorem optionalStageOperations : Obligations.OptionalStageOperations := by
  refine fun x moves more s => ⟨fun v he h => ?_, fun v he h => ?_, fun v he h => ?_⟩
  · cases hf : Config.params.fits x.length with
    | true => exact compressOperation_of_fits he h hf
    | false => exact compressOperation_of_overflow he h hf
  · cases hf : Config.params.fits x.length with
    | false => exact decompressOperation_of_overflow he h hf
    | true =>
      cases hz : Config.params.zd x with
      | none => exact decompressOperation_of_fail he h hf hz
      | some r => exact decompressOperation_of_result he h hf hz
  · cases hf : Config.params.fits (Config.params.zc x).length with
    | false =>
      rw [Bool.and_false]
      exact decompressOperation_of_overflow he h hf
    | true =>
      rw [Bool.and_true]
      exact decompressOperation_of_result he h hf (zd_zc _ x)

end Sys2Proof.Machine
end

section
/-! PROOFS. The contract of the stripper (42_framer_strip.md R155, R160, R161): the bytes that are no alphabet bytes,
without the one space that may be held back at their end. -/

namespace Sys2Proof.Machine

/-! The bytes that are no alphabet bytes -/

theorem inCod_of_mem_residue (w : Width) (c : Bytes) (b : Byte) (h : b ∈ residue w c) : inCod w b = false := by
  simpa using (List.mem_filter.mp h).2

theorem residue_eq_self (w : Width) (c : Bytes) (h : ∀ b ∈ c, inCod w b = false) : residue w c = c :=
  List.filter_eq_self.mpr fun b hb => by simp [h b hb]

theorem residue_eq_nil (w : Width) (c : Bytes) (h : ∀ b ∈ c, inCod w b = true) : residue w c = [] :=
  List.filter_eq_nil_iff.mpr fun b hb => by simp [h b hb]

@[simp] theorem residue_pack (w : Width) (x : Bytes) : residue w (pack w x) = [] :=
  residue_eq_nil w _ (inCod_of_mem_pack w x)

theorem residue_symbol (w : Width) (b : Byte) (h : inCod w b = true) : residue w [b] = [] := by
  simp [residue, h]

theorem residue_noise (w : Width) (b : Byte) (h : inCod w b = false) : residue w [b] = [b] := by
  simp [residue, h]

/-! The held-back space -/

/-- A space at the end of the residue is held back. -/
theorem strip_of_residue_eq_concat (w : Width) (c r : Bytes) (h : residue w c = r ++ [markerByte]) :
    strip w c = r := by
  rw [strip, h, List.getLast?_concat, if_pos rfl, List.dropLast_concat]

/-- Without a space at its end the residue is the result. -/
theorem strip_of_getLast?_ne (w : Width) (c : Bytes) (h : (residue w c).getLast? ≠ some markerByte) :
    strip w c = residue w c := if_neg h

/-- What is stripped and the space held back behind it are the residue. -/
theorem strip_append_held (w : Width) (c : Bytes) :
    strip w c ++ (if (residue w c).getLast? = some markerByte then [markerByte] else []) = residue w c := by
  split
  next h =>
    obtain ⟨r, hr⟩ := List.getLast?_eq_some_iff.mp h
    rw [strip_of_residue_eq_concat w c r hr, hr]
  next h => rw [strip_of_getLast?_ne w c h, List.append_nil]

/-- The result ends in a space exactly when the residue ends in two (42_framer_strip.md R160). -/
theorem getLast?_strip_iff (w : Width) (c : Bytes) :
    (strip w c).getLast? = some markerByte ↔ ∃ r, residue w c = r ++ [markerByte, markerByte] := by
  constructor
  · intro hs
    by_cases h : (residue w c).getLast? = some markerByte
    · obtain ⟨r, hr⟩ := List.getLast?_eq_some_iff.mp hs
      have hheld := strip_append_held w c
      rw [hr, if_pos h, List.append_assoc] at hheld
      exact ⟨r, hheld.symm⟩
    · exact absurd (strip_of_getLast?_ne w c h ▸ hs) h
  · rintro ⟨r, hr⟩
    rw [strip_of_residue_eq_concat w c (r ++ [markerByte]) (by simp [hr]), List.getLast?_concat]

/-- Among sequences without alphabet bytes, those that do not end in a space are the unchanged ones. -/
theorem strip_eq_self_iff (w : Width) (c : Bytes) (h : ∀ b ∈ c, inCod w b = false) :
    strip w c = c ↔ c.getLast? ≠ some markerByte := by
  have hr := residue_eq_self w c h
  constructor
  · intro hs hl
    have hheld := strip_append_held w c
    rw [hs, hr, if_pos hl] at hheld
    exact List.cons_ne_nil _ _ (List.append_right_eq_self.mp hheld)
  · intro hl
    rw [strip_of_getLast?_ne w c (by rwa [hr]), hr]

theorem inCod_of_mem_strip (w : Width) (c : Bytes) (b : Byte) (h : b ∈ strip w c) : inCod w b = false := by
  refine inCod_of_mem_residue w c b ?_
  rw [← strip_append_held w c]
  exact List.mem_append_left _ h

/-- Settles O44: what is stripped holds no alphabet byte, so stripping it again changes it only where it ends in a
space. -/
theorem stripIdempotenceAsFarAsItHolds : Obligations.StripIdempotenceAsFarAsItHolds := fun w c =>
  ⟨strip_eq_self_iff w _ (inCod_of_mem_strip w c), not_congr (getLast?_strip_iff w c),
    fun h hl => (strip_eq_self_iff w c h).mpr hl, inCod_of_mem_strip w c⟩

/-! The framing boundary (42_framer_strip.md R161) -/

/-- Behind a carrier without alphabet bytes the framed secret's alphabet bytes are the packed secret. -/
theorem kept_carrier_frame (w : Width) (c x : Bytes) (h : ∀ b ∈ c, inCod w b = false) :
    kept w (c ++ frame (pack w x)) = pack w x := by
  have hm : kept w [markerByte] = [] := kept_eq_nil w _ (by simp [inCod_marker])
  rw [frame, kept_append, kept_append, kept_eq_nil w c h, hm, kept_pack, List.nil_append, List.nil_append]

/-- The framed secret adds the marker alone to the residue. -/
theorem residue_carrier_frame (w : Width) (c x : Bytes) (h : ∀ b ∈ c, inCod w b = false) :
    residue w (c ++ frame (pack w x)) = c ++ [markerByte] := by
  rw [frame, residue_append, residue_append, residue_eq_self w c h, residue_noise w _ (inCod_marker w), residue_pack,
    List.append_nil]

/-- Settles O45: the marker is the last byte of the residue, so it is the space that STRIP drops. -/
theorem framingBoundary : Obligations.FramingBoundary := by
  intro w c x h
  rw [List.append_assoc]
  constructor
  · have hk := (kept_carrier_frame w c x h).trans (kept_pack w x).symm
    exact (unpack_eq_of_kept_eq w _ _ hk).trans (unpack_pack w x)
  · exact strip_of_residue_eq_concat w _ c (residue_carrier_frame w c x h)

end Sys2Proof.Machine
end

section
/-! PROOFS. One token of FRAME (42_framer_strip.md R151) and of STRIP (R156). -/

namespace Sys2Proof.Machine

open Sys2Proof.Claims

/-- Settles O20, a clause for each kind of token; the marker that is still to be sent is `pendingMarker`. -/
theorem frameConsumesOneToken : Obligations.FrameConsumesOneToken := by
  refine ⟨by decide, fun s b q hb hq => ?_, fun s q hb hq => ?_⟩
  · rw [exec_stream_token .frame _ rfl s _ q hb hq, consume_frame_byte]
    rfl
  · rw [exec_stream_token .frame _ rfl s _ q hb hq, consume_frame_eos]
    rfl

/-- The space that the stripper holds back, which the next byte it keeps sends out first (42_framer_strip.md R156). -/
def heldSpace (s : State) : List OutTok := if s.sp then [.byte markerByte] else []

theorem consume_strip_symbol (P : Params) (w : Width) (b : Byte) (s : State) (h : inCod w b = true) :
    consumeThrough P (stripPipeline w) (.byte b) s = s := by
  rw [consume_strip_byte, if_pos h]

theorem consume_strip_marker (P : Params) (w : Width) (s : State) :
    consumeThrough P (stripPipeline w) (.byte markerByte) s =
      { s with sp := true, outH := s.outH ++ heldSpace s } := by
  rw [consume_strip_byte, if_neg (Bool.eq_false_iff.mp (inCod_marker w)), if_pos rfl]
  rfl

theorem consume_strip_other (P : Params) (w : Width) (b : Byte) (s : State) (h : inCod w b = false)
    (hm : b ≠ markerByte) :
    consumeThrough P (stripPipeline w) (.byte b) s =
      { s with sp := false, outH := s.outH ++ heldSpace s ++ [.byte b] } := by
  rw [consume_strip_byte, if_neg (Bool.eq_false_iff.mp h), if_neg hm]
  rfl

/-- Settles O21, a clause for each kind of token; a byte is an alphabet byte, a space or another one. -/
theorem stripConsumesOneToken : Obligations.StripConsumesOneToken := by
  refine ⟨by decide, fun w s b q hb hq => ?_, fun w s q hb hq => exec_stream_token (.strip w) _ rfl s _ q hb hq⟩
  rw [exec_stream_token (.strip w) _ rfl s _ q hb hq]
  by_cases hc : inCod w b = true
  · rw [consume_strip_symbol _ w b _ hc, if_pos ((inCod_iff w b).mp hc)]
  · rw [if_neg fun hr => hc ((inCod_iff w b).mpr hr)]
    by_cases hm : b = markerByte
    · rw [hm, consume_strip_marker]
      exact (if_pos rfl).symm
    · rw [consume_strip_other _ w b _ (Bool.eq_false_iff.mpr hc) hm]
      exact (if_neg hm).symm

/-- Settles O28: a symbol row is STRIP on an alphabet byte, the marker row on a space. -/
theorem stripRemovesSymbolsAndHoldsTheMarker : Obligations.StripRemovesSymbolsAndHoldsTheMarker := by
  constructor
  · rintro ⟨i, w, g, b⟩ hr s hb hu
    obtain ⟨hi, hc, -⟩ := alphabetTable_row _ hr
    rw [exec_row_busy i (.strip w) b _ s hi hb hu rfl, consume_strip_symbol _ w b s hc]
  · intro w s hb hu
    rw [exec_row_busy .marker (.strip w) markerByte _ s rfl hb hu rfl, consume_strip_marker]
    rfl

end Sys2Proof.Machine
end

section
/-! PROOFS. Whole operations of FRAME (42_framer_strip.md R153) and of STRIP (R159): SP says whether the residue so far
ends in a space, which is then not on OUT yet. -/

namespace Sys2Proof.Machine

open Sys2Proof.Claims

/-! FRAME -/

/-- What FRAME makes of a block on a sequence of bytes and END: the marker, where it was not sent yet, and the bytes
are on OUT, and MK is clear. -/
theorem consume_frame_stream (P : Params) (x : Bytes) (s : State) :
    consumeThrough P framePipeline .eos (consumeBytes P framePipeline x s) =
      finish { s with mkf := false, outH := s.outH ++ pendingMarker s ++ x.map .byte } := by
  induction x generalizing s with
  | nil =>
    rw [consumeBytes_nil, consume_frame_eos, List.map_nil, List.append_nil]
    rfl
  | cons b x ih =>
    rw [consumeBytes_cons, consume_frame_byte, ih]
    simp [pendingMarker]

/-- Settles O35: MK is clear at the start, so the marker is sent once, in front of the bytes. -/
theorem frameOperationEmitsFrame : Obligations.FrameOperationEmitsFrame := by
  intro x v moves more s he h
  rw [runOperation_of_ahead (i := .frame) rfl he x h, consume_frame_stream, ← finish_eq_afterOperation, frame,
    List.map_append, ← List.append_assoc]
  rfl

/-! STRIP -/

/-- `s` with the stripped bytes of `p` on OUT, and SP set where a space at their end is held back. -/
def strippedTo (w : Width) (p : Bytes) (s : State) : State :=
  { s with
    sp := decide ((residue w p).getLast? = some markerByte)
    outH := s.outH ++ (strip w p).map .byte }

/-- What is on OUT and the space held back are the residue. -/
theorem outH_strippedTo_append_heldSpace (w : Width) (p : Bytes) (s : State) :
    (strippedTo w p s).outH ++ heldSpace (strippedTo w p s) = s.outH ++ (residue w p).map .byte := by
  have hheld : heldSpace (strippedTo w p s) =
      (if (residue w p).getLast? = some markerByte then [markerByte] else []).map .byte := by
    simp only [heldSpace, strippedTo, decide_eq_true_eq]
    split <;> rfl
  rw [hheld, strippedTo, List.append_assoc, ← List.map_append, strip_append_held]

/-- An alphabet byte changes neither the residue nor what is on OUT. -/
theorem strippedTo_concat_symbol (w : Width) (p : Bytes) (b : Byte) (s : State) (h : inCod w b = true) :
    strippedTo w (p ++ [b]) s = strippedTo w p s := by
  have hr : residue w (p ++ [b]) = residue w p := by rw [residue_append, residue_symbol w b h, List.append_nil]
  simp only [strippedTo, strip, hr]

theorem strippedTo_concat_marker (w : Width) (p : Bytes) (s : State) :
    strippedTo w (p ++ [markerByte]) s = { s with sp := true, outH := s.outH ++ (residue w p).map .byte } := by
  have hr : residue w (p ++ [markerByte]) = residue w p ++ [markerByte] := by
    rw [residue_append, residue_noise w _ (inCod_marker w)]
  simp only [strippedTo, strip_of_residue_eq_concat w _ _ hr, hr, List.getLast?_concat, decide_true]

theorem strippedTo_concat_other (w : Width) (p : Bytes) (b : Byte) (s : State) (h : inCod w b = false)
    (hm : b ≠ markerByte) :
    strippedTo w (p ++ [b]) s =
      { s with sp := false, outH := s.outH ++ (residue w p).map .byte ++ [.byte b] } := by
  have hr : residue w (p ++ [b]) = residue w p ++ [b] := by rw [residue_append, residue_noise w b h]
  have hl : (residue w (p ++ [b])).getLast? ≠ some markerByte := by simpa [hr] using hm
  simp [strippedTo, strip_of_getLast?_ne w _ hl, hr, hm]

/-- What STRIP makes of a block with SP clear on a sequence of bytes (42_framer_strip.md R159). -/
theorem consumeBytes_strip (P : Params) (w : Width) (x : Bytes) (s : State) (h : s.sp = false) :
    consumeBytes P (stripPipeline w) x s = strippedTo w x s := by
  induction x using List.reverseRecOn with
  | nil => simp [strippedTo, strip, ← h]
  | append_singleton x b ih =>
    have hout := outH_strippedTo_append_heldSpace w x s
    rw [consumeBytes_concat, ih]
    cases hc : inCod w b with
    | true => rw [consume_strip_symbol P w b _ hc, strippedTo_concat_symbol w x b s hc]
    | false =>
      by_cases hm : b = markerByte
      · rw [hm, consume_strip_marker, strippedTo_concat_marker, hout]
        rfl
      · rw [consume_strip_other P w b _ hc hm, strippedTo_concat_other w x b s hc hm, hout]
        rfl

/-- Settles O36: END drops the space held back, and in the middle of the operation SP says that there is one. -/
theorem stripOperationEmitsStrip : Obligations.StripOperationEmitsStrip := by
  intro w x v moves more s he h
  constructor
  · rw [runOperation_of_ahead (i := .strip w) rfl he x h, consumeBytes_strip _ w x _ rfl, consume_strip_eos]
    exact congrArg _ (finish_eq_afterOperation v (strip w x) moves more s)
  · rintro p r rfl
    refine ⟨_, run_front_of_ahead (i := .strip w) rfl he p r h, ?_⟩
    rw [consumeBytes_strip _ w p _ rfl]
    refine ⟨rfl, decide_eq_true_iff, rfl, ?_⟩
    simp only [withHost, strippedTo, started, strip, decide_eq_true_eq]

end Sys2Proof.Machine
end

section
/-! PROOFS. CLR (43_composite_control.md R176), and the byte rows as tokens of the latched command (R170). -/

namespace Sys2Proof.Machine

open Sys2Proof.Claims

theorem execClr_busy (s : State) (h : s.seq = .busy) : exec .clr s = .next (writeWhileBusy s) := by
  show execClr s = _
  unfold execClr
  rw [h]

/-- Settles O12: CLR is the word 0, and ignored like every write while BUSY. -/
theorem clrReturnsToIdle : Obligations.ClrReturnsToIdle := ⟨by decide, execClr_free, execClr_busy⟩

/-- Settles O29: while BUSY both sides are the latched pipeline on the byte. -/
theorem byteRowsAreTokensOfTheLatchedCommand : Obligations.ByteRowsAreTokensOfTheLatchedCommand := by
  refine ⟨fun s i c b hi hb hd hp => ?_, fun s i b hi hb => ?_⟩
  · obtain ⟨stages, hs⟩ := Option.isSome_iff_exists.mp hp
    rw [exec_row_busy i c b stages s hi hb (encode_of_decodeCmd _ c hd) hs]
    exact (exec_stream_token c stages hs { s with inq := .byte b :: s.inq } (.byte b) s.inq hb rfl).symm
  · rw [exec_row i b hi, streamByte_free b s hb]

end Sys2Proof.Machine
end

section
/-! PROOFS. One token of HIDE (43_composite_control.md R171) and of EXTRACT (R173). -/

namespace Sys2Proof.Machine

open Sys2Proof.Claims

/-! HIDE -/

/-- With MK clear at END, HIDE with the optional stage sends the framed and packed result (43_composite_control.md
R171). -/
theorem consume_hidez_eos_first (P : Params) (w : Width) (s : State) (h : s.mkf = false) :
    consumeThrough P (hidePipeline w true) .eos s =
      if s.ovf then enterFault .overflow s
      else
        finish { reportSizes (P.zc s.zbuf) s with
          outH := s.outH ++ (frame (pack w (P.zc s.zbuf))).map .byte } := by
  simp [consume_hidez_eos, pendingMarker, reportSizes, h, frame, pack_eq_flatMap]

theorem frame_pack_eq (w : Width) (x : Bytes) : frame (pack w x) = 0x20#8 :: x.flatMap (packedByte w) := by
  rw [pack_eq_flatMap, funext (symbolsOf_eq_packedByte w)]
  rfl

/-- Settles O24, a clause for each setting and kind of token. -/
theorem hideConsumesOneToken : Obligations.HideConsumesOneToken := by
  refine ⟨by decide, fun w s b q hb hq => ?_, fun w s q hb hq => ?_, fun w s b q hb hq => ?_,
    fun w s q hb hq hm => ?_⟩
  · rw [exec_stream_token (.hide w false) _ rfl s _ q hb hq, consume_hide_byte, symbolsOf_eq_packedByte]
    rfl
  · rw [exec_stream_token (.hide w false) _ rfl s _ q hb hq, consume_hide_eos]
    rfl
  · rw [exec_stream_token (.hide w true) _ rfl s _ q hb hq, consume_hidez_byte, zStore_eq_stored]
  · rw [exec_stream_token (.hide w true) _ rfl s _ q hb hq,
      consume_hidez_eos_first _ w { s with inq := q } hm, frame_pack_eq]
    split
    next => rfl
    next =>
      exact congrArg Host.Outcome.next
        (finish_outputStream _ (reportSizes (Config.params.zc s.zbuf) { s with inq := q }))

/-! EXTRACT -/

/-- While BUSY a stream command's meaning is its pipeline's; the word it is started with does not matter. -/
theorem exec_eq_of_pipelineOf_eq (i j : Instr) (stages : List Stage) (hi : pipelineOf i = some stages)
    (hj : pipelineOf j = some stages) (s : State) (hb : s.seq = .busy) : exec i s = exec j s := by
  cases hq : s.inq with
  | nil =>
    obtain ⟨u, -, hu⟩ := exec_stream i stages hi
    obtain ⟨v, -, hv⟩ := exec_stream j stages hj
    rw [hu, hv, streamCommand_wait u stages s hb hq, streamCommand_wait v stages s hb hq]
  | cons tok q => rw [exec_stream_token i stages hi s tok q hb hq, exec_stream_token j stages hj s tok q hb hq]

/-- EXTRACT with the optional stage on an alphabet byte: its group is shifted into ACC, and the eighth bit stores the
byte (43_composite_control.md R173). -/
theorem consume_extractz_symbol (P : Params) (w : Width) (b : Byte) (s : State) (h : inCod w b = true) :
    consumeThrough P (extractPipeline w true) (.byte b) s =
      if s.nb.toNat + widthBits w = 8 then
        { zStore P ((s.acc <<< widthBits w) ||| groupOf b) s with acc := 0#8, nb := 0#3 }
      else
        { s with
          acc := (s.acc <<< widthBits w) ||| groupOf b
          nb := BitVec.ofNat 3 (s.nb.toNat + widthBits w) } := by
  simp only [consume_extractz_byte, h, if_true, nb_full_iff, nb_next_eq]

/-- EXTRACT with the optional stage ignores a byte that is no alphabet byte. -/
theorem consume_extractz_noise (P : Params) (w : Width) (b : Byte) (s : State) (h : inCod w b = false) :
    consumeThrough P (extractPipeline w true) (.byte b) s = s := by
  simp [consume_extractz_byte, h]

/-- END of EXTRACT with the optional stage is DECOMPRESS's END with the unpacker's registers cleared
(43_composite_control.md R173). -/
theorem exec_extractz_eos (w : Width) (s : State) (q : List Token) (hb : s.seq = .busy) (hq : s.inq = .eos :: q) :
    exec (.extract w true) s = exec .decompress { s with acc := 0#8, nb := 0#3 } := by
  rw [exec_stream_token (.extract w true) _ rfl s _ q hb hq, consume_extractz_eos]
  exact (exec_stream_token .decompress _ rfl { s with acc := 0#8, nb := 0#3 } .eos q hb hq).symm

/-- Settles O25: the first clause by the equality of the pipelines, the last by DECOMPRESS's END. -/
theorem extractConsumesOneToken : Obligations.ExtractConsumesOneToken := by
  refine ⟨by decide, fun w s hb => ?_, fun w s b q hb hq _ hr => ?_, fun w s b q hb hq hr => ?_,
    fun w s q hb hq => ?_⟩
  · exact exec_eq_of_pipelineOf_eq (.extract w false) (.unpack w) _ rfl rfl s hb
  · rw [exec_stream_token (.extract w true) _ rfl s _ q hb hq,
      consume_extractz_symbol _ w b _ ((inCod_iff w b).mpr hr), zStore_eq_stored]
    split <;> rfl
  · have hc : inCod w b = false := Bool.eq_false_iff.mpr fun h => hr ((inCod_iff w b).mp h)
    rw [exec_stream_token (.extract w true) _ rfl s _ q hb hq, consume_extractz_noise _ w b _ hc]
  · obtain ⟨-, -, hend⟩ := decompressConsumesOneToken
    rw [exec_extractz_eos w s q hb hq]
    exact hend { s with acc := 0#8, nb := 0#3 } q hb hq

end Sys2Proof.Machine
end

section
/-! PROOFS. Whole operations of HIDE and of EXTRACT (43_composite_control.md R177): what the unpacker hands to the
decompressor is what it would put on OUT. -/

namespace Sys2Proof.Machine

open Sys2Proof.Claims

/-! HIDE -/

/-- What HIDE without the optional stage makes of a block on a sequence of bytes and END. -/
theorem consume_hide_stream (P : Params) (w : Width) (x : Bytes) (s : State) :
    consumeThrough P (hidePipeline w false) .eos (consumeBytes P (hidePipeline w false) x s) =
      finish { s with mkf := false, outH := s.outH ++ pendingMarker s ++ (pack w x).map .byte } := by
  rw [pack_eq_flatMap]
  induction x generalizing s with
  | nil =>
    rw [consumeBytes_nil, consume_hide_eos, List.flatMap_nil, List.map_nil, List.append_nil]
    rfl
  | cons b x ih =>
    rw [consumeBytes_cons, consume_hide_byte, ih]
    simp [pendingMarker]

/-! The unpacker in front of the decompressor -/

/-- `t` with the unpacker's registers of `u`. -/
def withAccOf (u t : State) : State := { t with acc := u.acc, nb := u.nb }

theorem withAccOf_clear {s : State} (ha : s.acc = 0#8) (hn : s.nb = 0#3) (u t : State) :
    { withAccOf u t with acc := 0#8, nb := 0#3 } = withAccOf s t := by
  simp only [withAccOf, ha, hn]

theorem zStore_withAccOf (P : Params) (b : Byte) (u t : State) :
    zStore P b (withAccOf u t) = withAccOf u (zStore P b t) := by
  cases hr : P.room t.zbuf.length with
  | true =>
    rw [zStore_room P b t hr]
    exact zStore_room P b _ hr
  | false =>
    rw [zStore_full P b t hr]
    exact zStore_full P b _ hr

/-- DECOMPRESS does not look at the unpacker's registers. -/
theorem consumeBytes_decompress_withAccOf (P : Params) (y : Bytes) (u t : State) :
    consumeBytes P decompressPipeline y (withAccOf u t) = withAccOf u (consumeBytes P decompressPipeline y t) := by
  induction y generalizing t with
  | nil => rfl
  | cons b y ih => simp only [consumeBytes_cons, consume_decompress_byte, zStore_withAccOf, ih]

/-- On a byte EXTRACT with the optional stage does to ACC and NB what UNPACK does, and stores what UNPACK emits. -/
theorem consume_extractz_byte_eq (P : Params) (w : Width) (b : Byte) (u t : State) :
    ∃ y : Bytes, (consumeThrough P (unpackPipeline w) (.byte b) u).outH = u.outH ++ y.map .byte ∧
      consumeThrough P (extractPipeline w true) (.byte b) (withAccOf u t) =
        withAccOf (consumeThrough P (unpackPipeline w) (.byte b) u) (consumeBytes P decompressPipeline y t) := by
  cases hc : inCod w b with
  | false =>
    rw [consume_unpack_noise P w b u hc, consume_extractz_noise P w b _ hc]
    exact ⟨[], by simp, rfl⟩
  | true =>
    rw [consume_unpack_symbol P w b u hc, consume_extractz_symbol P w b _ hc]
    by_cases h8 : u.nb.toNat + widthBits w = 8
    · refine ⟨[(u.acc <<< widthBits w) ||| groupOf b], by rw [if_pos h8]; rfl, ?_⟩
      rw [if_pos h8]
      refine (if_pos h8).trans ?_
      rw [zStore_withAccOf]
      rfl
    · refine ⟨[], by rw [if_neg h8]; simp, ?_⟩
      rw [if_neg h8]
      exact if_neg h8

theorem consumeBytes_append (P : Params) (stages : List Stage) (x y : Bytes) (s : State) :
    consumeBytes P stages (x ++ y) s = consumeBytes P stages y (consumeBytes P stages x s) :=
  List.foldl_append ..

/-- On a sequence of bytes EXTRACT with the optional stage stores what UNPACK emits. -/
theorem consumeBytes_extractz_eq (P : Params) (w : Width) (x : Bytes) (u t : State) :
    ∃ y : Bytes, (consumeBytes P (unpackPipeline w) x u).outH = u.outH ++ y.map .byte ∧
      consumeBytes P (extractPipeline w true) x (withAccOf u t) =
        withAccOf (consumeBytes P (unpackPipeline w) x u) (consumeBytes P decompressPipeline y t) := by
  induction x generalizing u t with
  | nil => exact ⟨[], by simp, rfl⟩
  | cons b x ih =>
    obtain ⟨y, hy, hb⟩ := consume_extractz_byte_eq P w b u t
    obtain ⟨z, hz, hx⟩ := ih (consumeThrough P (unpackPipeline w) (.byte b) u)
      (consumeBytes P decompressPipeline y t)
    refine ⟨y ++ z, ?_, ?_⟩
    · rw [consumeBytes_cons, hz, hy, List.map_append, List.append_assoc]
    · rw [consumeBytes_cons, hb, hx, consumeBytes_cons, consumeBytes_append]

section

variable (P : Params) (w : Width) (x : Bytes) (s : State) (ha : s.acc = 0#8) (hn : s.nb = 0#3)

include ha hn

/-- With an empty accumulator UNPACK puts the unpacked bytes on OUT and changes nothing else but ACC and NB. -/
theorem consumeBytes_unpack_eq : ∃ u : State, consumeBytes P (unpackPipeline w) x s =
    withAccOf u { s with outH := s.outH ++ (unpack w x).map .byte } := by
  obtain ⟨c, u, hsplit, hx⟩ := consumeBytes_unpack P w x s ha hn
  exact ⟨takenIn c u s, by rw [hx, unpack, hsplit.bytesOf_eq]; rfl⟩

theorem consume_unpack_stream :
    consumeThrough P (unpackPipeline w) .eos (consumeBytes P (unpackPipeline w) x s) =
      finish { s with outH := s.outH ++ (unpack w x).map .byte } := by
  obtain ⟨u, hx⟩ := consumeBytes_unpack_eq P w x s ha hn
  rw [hx, consume_unpack_eos, withAccOf_clear ha hn]
  rfl

/-- EXTRACT with the optional stage on a sequence of bytes and END is DECOMPRESS on the unpacked bytes and END. -/
theorem consume_extractz_stream :
    consumeThrough P (extractPipeline w true) .eos (consumeBytes P (extractPipeline w true) x s) =
      consumeThrough P decompressPipeline .eos (consumeBytes P decompressPipeline (unpack w x) s) := by
  obtain ⟨y, hy, hx⟩ := consumeBytes_extractz_eq P w x s s
  obtain ⟨u, hu⟩ := consumeBytes_unpack_eq P w x s ha hn
  obtain rfl : unpack w x = y := by
    rw [hu] at hy
    exact List.map_injective_iff.mpr (fun _ _ => OutTok.byte.inj) (List.append_cancel_left hy)
  calc consumeThrough P (extractPipeline w true) .eos (consumeBytes P (extractPipeline w true) x s)
      = consumeThrough P (extractPipeline w true) .eos (withAccOf (consumeBytes P (unpackPipeline w) x s)
          (consumeBytes P decompressPipeline (unpack w x) s)) := congrArg _ hx
    _ = consumeThrough P decompressPipeline .eos
          (withAccOf s (consumeBytes P decompressPipeline (unpack w x) s)) := by
        rw [consume_extractz_eos, withAccOf_clear ha hn]
    _ = consumeThrough P decompressPipeline .eos (consumeBytes P decompressPipeline (unpack w x) s) :=
        congrArg _ (consumeBytes_decompress_withAccOf P (unpack w x) s s).symm

end

/-! DECOMPRESS's bytes and END, whatever command was started -/

section

variable (v : Word) (y : Bytes) (moves : List HostMove) (more : List Token) (s : State)

/-- What DECOMPRESS makes of a started block on the bytes of `y` and END, the host's side put in place. -/
def decompressed : State :=
  withHost more moves (consumeThrough Config.params decompressPipeline .eos
    (consumeBytes Config.params decompressPipeline y (started v .busy .none s)))

theorem decompressed_of_overflow (hf : Config.params.fits y.length = false) :
    decompressed v y moves more s = afterOperation v [] .overflow 0#32 0#32 moves more s := by
  obtain ⟨z, hz⟩ := consumeBytes_store_overflow (fun b t => consume_decompress_byte Config.params t b) y
    (started v .busy .none s) rfl hf
  rw [decompressed, hz, consume_decompress_eos]
  exact enterFault_eq_afterOperation v .overflow (by decide) z true moves more s

section

variable (hf : Config.params.fits y.length = true)

include hf

theorem decompressed_of_fail (hz : Config.params.zd y = none) :
    decompressed v y moves more s = afterOperation v [] .malformed 0#32 0#32 moves more s := by
  rw [decompressed, consumeBytes_store_fits (fun b t => consume_decompress_byte Config.params t b) y _ rfl hf,
    consume_decompress_eos]
  simp only [started, Bool.false_eq_true, if_false, hz]
  exact enterFault_eq_afterOperation v .malformed (by decide) y false moves more s

theorem decompressed_of_result (r : Bytes) (hz : Config.params.zd y = some r) :
    decompressed v y moves more s =
      if Config.params.fits r.length then afterOperation v r .none 0#32 0#32 moves more s
      else afterOperation v [] .overflow 0#32 0#32 moves more s := by
  rw [decompressed, consumeBytes_store_fits (fun b t => consume_decompress_byte Config.params t b) y _ rfl hf,
    consume_decompress_eos]
  simp only [started, Bool.false_eq_true, if_false, hz]
  split
  next => exact finish_eq_afterOperation v r moves more s
  next => exact enterFault_eq_afterOperation v .overflow (by decide) y false moves more s

end

end

/-! The operations -/

section

variable {w : Width} {v : Word} {x : Bytes} {moves : List HostMove} {more : List Token} {s : State}
  (h : Ahead v x moves more s)

include h

theorem hideOperation (he : encode (.hide w false) = .cmd v) :
    runOperation x s = .next (afterOperation v (hide Config.params w false x) .none 0#32 0#32 moves more s) := by
  rw [runOperation_of_ahead (i := .hide w false) rfl he x h, consume_hide_stream, ← finish_eq_afterOperation,
    hide, frame, List.map_append, ← List.append_assoc]
  rfl

theorem hidezOperation_of_fits (he : encode (.hide w true) = .cmd v) (hf : Config.params.fits x.length = true) :
    runOperation x s = .next (afterOperation v (hide Config.params w true x) .none (sat32 x.length)
      (sat32 (Config.params.zc x).length) moves more s) := by
  rw [runOperation_of_fits (i := .hide w true) rfl (fun b t => consume_hidez_byte _ t w b) he h hf,
    consume_hidez_eos_first _ w _ rfl]
  exact congrArg (Host.Outcome.next ∘ withHost more moves)
    (finish_outputStream _ (reportSizes (Config.params.zc x) { started v .busy .none s with zbuf := x }))

theorem hidezOperation_of_overflow (he : encode (.hide w true) = .cmd v)
    (hf : Config.params.fits x.length = false) :
    runOperation x s = .next (afterOperation v [] .overflow 0#32 0#32 moves more s) :=
  runOperation_of_overflow (i := .hide w true) rfl (fun b t => consume_hidez_byte _ t w b) he h
    (fun t ht => (consume_hidez_eos _ t w).trans (if_pos ht)) hf

theorem extractOperation (he : encode (.extract w false) = .cmd v) :
    runOperation x s = .next (afterOperation v (unpack w x) .none 0#32 0#32 moves more s) := by
  rw [runOperation_of_ahead (i := .extract w false) (stages := unpackPipeline w) rfl he x h,
    consume_unpack_stream _ w x _ rfl rfl]
  exact congrArg _ (finish_eq_afterOperation v (unpack w x) moves more s)

theorem extractzOperation (he : encode (.extract w true) = .cmd v) :
    runOperation x s = .next (decompressed v (unpack w x) moves more s) := by
  rw [runOperation_of_ahead (i := .extract w true) rfl he x h, consume_extractz_stream _ w x _ rfl rfl,
    decompressed]

end

/-- Settles O38: HIDE by what its buffer holds, EXTRACT by DECOMPRESS on the unpacked bytes. -/
theorem hideAndExtractOperations : Obligations.HideAndExtractOperations := by
  refine fun w ce x moves more s => ⟨fun v he h => ?_, fun v he h => ?_⟩
  · cases ce with
    | false => exact hideOperation h he
    | true =>
      cases hf : Config.params.fits x.length with
      | true => exact hidezOperation_of_fits h he hf
      | false => exact hidezOperation_of_overflow h he hf
  · cases ce with
    | false => exact extractOperation h he
    | true =>
      rw [extractzOperation h he]
      cases hf : Config.params.fits (unpack w x).length with
      | false => exact congrArg _ (decompressed_of_overflow v _ moves more s hf)
      | true =>
        cases hz : Config.params.zd (unpack w x) with
        | none =>
          rw [decompressed_of_fail v _ moves more s hf hz, extract, hz]
          rfl
        | some r =>
          rw [decompressed_of_result v _ moves more s hf r hz, extract, hz]
          rfl

end Sys2Proof.Machine
end

section
/-! PROOFS. The secret and the carrier come back (43_composite_control.md R177). -/

namespace Sys2Proof.Machine

/-- What HIDE emits behind a carrier is the marker and the packed payload. -/
theorem append_hide (P : Params) (w : Width) (ce : Bool) (c x : Bytes) :
    c ++ hide P w ce x = c ++ [markerByte] ++ pack w (if ce then P.zc x else x) :=
  (List.append_assoc ..).symm

/-- Settles O39: the framing boundary gives back the carrier and the payload, and the codec's law the secret. -/
theorem hiddenSecretsComeBack : Obligations.HiddenSecretsComeBack := by
  intro P w ce c x hc
  obtain ⟨hu, hs⟩ := framingBoundary w c (if ce then P.zc x else x) hc
  rw [append_hide]
  refine ⟨?_, hs⟩
  rw [extract, markerByte, hu]
  cases ce with
  | false => rfl
  | true => exact zd_zc P x

end Sys2Proof.Machine
end

section
/-! PROOFS. Exceptions: the illegal word (60_exceptions.md R191), entry into FAULT by codes 2 and 3 (R196), and
waiting for a token (R210). -/

namespace Sys2Proof.Machine

open Sys2Proof.Claims

/-! The illegal word -/

theorem written_illegal (v : Word) (s : State) (h : v ∉ legalWords) :
    written v s = started v .fault .illegalCmd s := by
  have hz : v ≠ 0#32 := by
    rintro rfl
    exact h (mem_legalWords_of_decodeCmd _ _ decodeCmd_zero)
  rw [written, if_neg hz, if_neg h]

/-- Settles O13: an illegal word is written like any other, and STATUS is the sum of its fields. -/
theorem illegalWordTakesIllegalCmd : Obligations.IllegalWordTakesIllegalCmd := by
  intro s v rest hm hb hv
  have hw := writeCmd_free v { s with script := rest } hb
  rw [written_illegal v _ hv] at hw
  exact ⟨(step_move s _ rest hm).trans hw, statusWord_eq_statusNat _⟩

/-! Entry into FAULT by a pipeline -/

theorem enterFault_eq_faulted (c : ErrCode) (q : List Token) (s : State) :
    enterFault c { s with inq := q } = faulted c q s := rfl

/-- END that ends in FAULT has done fault entry and nothing else (60_exceptions.md R196). -/
theorem consume_eos_of_fault (P : Params) (stages : List Stage) (h : IsPipeline stages) (s : State)
    (hf : (consumeThrough P stages .eos s).seq = .fault) :
    ∃ c, (c = .malformed ∨ c = .overflow) ∧ consumeThrough P stages .eos s = enterFault c s := by
  rcases consume_eos_cases P stages h s with ⟨c, hc, hx⟩ | ⟨-, hd⟩
  · exact ⟨c, hc.imp And.left And.left, hx⟩
  · cases hf.symm.trans hd.seq

/-- A hand-over enters FAULT only by taking END while BUSY. -/
theorem consumeNext_enters_fault (s t : State) (hx : consumeNext s = .next t) (hs : s.seq ≠ .fault)
    (ht : t.seq = .fault) :
    s.seq = .busy ∧ ∃ c q, (c = .malformed ∨ c = .overflow) ∧ s.inq = .eos :: q ∧ t = faulted c q s := by
  rcases consumeNext_cases s t hx with ⟨-, rfl⟩ | ⟨hb, stages, tok, q, hp, hq, rfl⟩
  · exact absurd ht hs
  · obtain ⟨i, -, hi⟩ := latchedPipeline_some s stages hp
    cases tok with
    | byte b =>
      have hk := consume_byte_seq Config.params { s with inq := q } b i stages hi
      exact absurd (hk.symm.trans ht) hs
    | eos =>
      obtain ⟨c, hc, hx⟩ := consume_eos_of_fault Config.params stages (isPipeline_of_pipelineOf i stages hi) _ ht
      exact ⟨hb, c, q, hc, hq, hx.trans (enterFault_eq_faulted c q s)⟩

/-- A write to CMD enters FAULT only with ILLEGAL_CMD (10_state.md R24). -/
theorem writeCmd_enters_fault (v : Word) (s t : State) (hx : writeCmd v s = .next t) (ht : t.seq = .fault) :
    t.err = .illegalCmd := by
  have hseq := writeCmd_seq v s t hx
  simp only [ht, reduceCtorEq, false_and, true_and, if_false_left] at hseq
  obtain ⟨-, -, -, he⟩ := hseq
  exact he

/-- Of the host's moves only a hand-over enters FAULT with another code than ILLEGAL_CMD. -/
theorem eq_consume_of_enters_fault (m : HostMove) (s t : State) (hx : perform m s = .next t) (hs : s.seq ≠ .fault)
    (ht : t.seq = .fault) (he : t.err ≠ .illegalCmd) : m = .consume := by
  cases m with
  | reset =>
    cases hx
    cases ht
  | regRead | offer | discard =>
    cases hx
    exact absurd ht hs
  | regWrite i v =>
    by_cases hi : i = 1#3
    · subst hi
      exact absurd (writeCmd_enters_fault v s t hx ht) he
    · cases (regWrite_other i v s hi).symm.trans hx
      exact absurd ht hs
  | consume => rfl

/-- Settles O52: the move is a hand-over, the hand-over is of END, and the lengths are 0 while BUSY. -/
theorem faultEntryIsPrecise : Obligations.FaultEntryIsPrecise := by
  refine ⟨fun s t m rest hm hx hs ht he => ?_, fun s h hb => h.sizes_busy hb⟩
  rw [step_move s m rest hm] at hx
  obtain rfl := eq_consume_of_enters_fault m _ t hx hs ht he
  obtain ⟨hb, c, q, hc, hq, hf⟩ := consumeNext_enters_fault _ t hx hs ht
  exact ⟨rfl, hb, c, q, hc, hq, hf⟩

/-! Waiting -/

/-- Settles O26: the second phase of a stream command takes nothing where nothing is on offer. -/
theorem busyCommandsWaitForAToken : Obligations.BusyCommandsWaitForAToken := by
  intro s i hi hb hq
  obtain ⟨stages, hs⟩ := Option.isSome_iff_exists.mp hi
  obtain ⟨v, -, hx⟩ := exec_stream i stages hs
  rw [hx, streamCommand_wait v stages s hb hq]

end Sys2Proof.Machine
end

section
/-! PROOFS. Two hides on one file (70_reset_and_hazards.md R230). -/

namespace Sys2Proof.Machine

/-- HIDE adds the packed payload to the alphabet bytes of whatever file it is appended to. -/
theorem kept_append_hide (P : Params) (w : Width) (ce : Bool) (c x : Bytes) :
    kept w (c ++ hide P w ce x) = kept w c ++ pack w (if ce then P.zc x else x) := by
  have hm : kept w [markerByte] = [] := kept_eq_nil w _ (by simp [inCod_marker])
  rw [append_hide, kept_append, kept_append, hm, kept_pack, List.append_nil]

/-- HIDE adds the marker alone to the other bytes of whatever file it is appended to. -/
theorem residue_append_hide (P : Params) (w : Width) (ce : Bool) (c x : Bytes) :
    residue w (c ++ hide P w ce x) = residue w c ++ [markerByte] := by
  rw [append_hide, residue_append, residue_append, residue_noise w _ (inCod_marker w), residue_pack, List.append_nil]

/-- STRIP drops the marker of the last HIDE and leaves what is no alphabet byte of the file before it. -/
theorem strip_append_hide (P : Params) (w : Width) (ce : Bool) (c x : Bytes) :
    strip w (c ++ hide P w ce x) = residue w c :=
  strip_of_residue_eq_concat w _ _ (residue_append_hide P w ce c x)

/-- Settles O46: the second HIDE takes the file of the first as its carrier, so the alphabet bytes are those of both
secrets, packed one behind the other, and STRIP leaves the carrier and the first marker. -/
theorem twoHidesOnOneFile : Obligations.TwoHidesOnOneFile := by
  intro P w c x y hc
  constructor
  · have hk : kept w (c ++ hide P w false x ++ hide P w false y) = pack w (x ++ y) := by
      rw [kept_append_hide, kept_append_hide, kept_eq_nil w c hc, List.nil_append, pack_append]
      rfl
    exact congrArg some (unpackInvertsPack.2.1 w (x ++ y) _ hk)
  · rw [strip_append_hide, residue_append_hide, residue_eq_self w c hc, markerByte]

end Sys2Proof.Machine
end
